-- ==== Sys2Proof/Word.lean ====
section
/-! DEFINITION. The machine's word types (00_scope.md R11, R12): what the spec reads as bits. -/

namespace Sys2Proof

/-- A register word, a prescale word, a 32-bit framebuffer pixel. -/
abbrev Word := BitVec 32

/-- A 16-bit framebuffer or depth sample. -/
abbrev Half := BitVec 16

/-- A byte of memory, of a path or of the snapshot file. -/
abbrev Byte := BitVec 8

/-- The 64-bit mode word `M` (30_encoding.md R140). -/
abbrev ModeWord := BitVec 64

end Sys2Proof
end

