-- ==== Sys2Proof/Syntax.lean ====
section
/-! DEFINITION. The operations of VI-RSE: one constructor of `Instr` per row of
spec/opcode_table.json, and the types of their operands. -/

namespace Sys2Proof

/-- An `RGB` triple (00_scope.md R16). -/
structure RGB where
  r : Byte
  g : Byte
  b : Byte
  deriving DecidableEq, Repr

/-- A colour with coverage (00_scope.md R16); coverage 7 is fully covered. -/
structure CCVG where
  r : Byte
  g : Byte
  b : Byte
  cvg : BitVec 3
  deriving DecidableEq, Repr

/-- The colour of a `CCVG`, its coverage dropped. -/
def CCVG.rgb (c : CCVG) : RGB := ⟨c.r, c.g, c.b⟩

/-- The pixel formats the fetch filters are told apart by (41_filters.md R193). -/
inductive Fmt where
  | bits16
  | bits32
  deriving DecidableEq, Repr

/-- The two source rows a scanline reads (43_pipeline_filtered.md R281): `RAWC`/`DIVC` belong to
the current row, `RAWN`/`DIVN` to the next one (10_state.md R45). -/
inductive SrcRow where
  | current
  | next
  deriving DecidableEq, Repr

/-- The two built-in tasks (40_dispatcher.md R162). -/
inductive Task where
  | filt
  | fast
  deriving DecidableEq, Repr

/-- The stages of the operation map (30_encoding.md R141). `WIDESCREEN` is a stage of its own:
it applies after whichever composition row matched (log 12). -/
inductive Stage where
  | pipeline
  | fetch
  | blend
  | restore
  | divot
  | gamma
  | field
  | compose
  | widescreen
  deriving DecidableEq, Repr

/-- The operations of the opcode table, in its order: 6 `CMD` rows, 22 `MODE` rows, 42 `SEQ` rows.
A `MODE` row has no operand field: what its variant works on stands in the registers of the worker
or of the engine that issued its stage (log 19). `SINK`, `SNAPSHOT` and `BMP` take the descriptor
`d` of 45_composition.md R340 from the engine's register `State.desc`. -/
inductive Instr where
  -- CMD rows (30_encoding.md R136)
  | dispInit
  | dispWcount
  | dispTeardown
  | cfgwr (arg : BitVec 24)
  | update
  | snapreq (path : List Byte)
  -- MODE rows (30_encoding.md R141)
  | pipeFilt
  | fastColor16
  | fastColor32
  | fastDepth
  | fastCvg
  | fetch16
  | fetch32
  | fetchBlank
  | aaResampExtraAlways
  | aaResampExtra
  | aaResampOnly
  | aaReplicate
  | restoreOn
  | divotOn
  | gammaOff
  | gammaDither
  | gammaTable
  | gammaTableDither
  | fieldInterlaced
  | composeFull
  | composeCrop
  | widescreen
  -- SEQ rows
  | reset
  | dispRun (task : Task)
  | resSnap
  | resExtent
  | resCtrl
  | resTv
  | resHporch
  | resHclamp0
  | resField
  | resVporch
  | resCanvas
  | resVactive
  | resBorder
  | resSkip
  | resPtr
  | resFit
  | taskFilt (wid : Nat)
  | scanline (y : Nat)
  | column (y x : Nat)
  | cacheNew
  | rawNeed (cache : SrcRow) (base c : Int)
  | divNeed (dcache rcache : SrcRow) (c : Int)
  | needs (cur : Int)
  | sel (row : SrcRow) (k : Int)
  | blend (cur : Int) (xfrac yfrac : BitVec 5)
  | lerp3 (cur : Int) (xfrac yfrac : BitVec 5)
  | write (y x : Nat) (v : Word)
  | fetch (num : Int)
  | aaFilter (fmt : Fmt) (rgb : RGB) (num : Int) (cvg : BitVec 3)
  | restoreFilter (fmt : Fmt) (rgb : RGB) (num : Int)
  | divot (left centre right : CCVG)
  | lerp (a b : CCVG) (w : BitVec 5)
  | gamma (rgb : RGB) (y x : Nat)
  | fastGeom
  | fastFit
  | taskFast (wid : Nat)
  | modesw
  | composeFast
  | sink
  | snapshot
  | bmp
  | present
  deriving DecidableEq, Repr

/-- The four display intents (10_state.md R33). -/
inductive Intent where
  | normal
  | colorFast
  | depthFast
  | coverageFast
  deriving DecidableEq, Repr

/-- The configuration `CFG` (10_state.md R33). -/
structure Cfg where
  intent : Intent
  widescreen : Bool
  hideOverscan : Bool
  workersReq : Byte
  deriving DecidableEq, Repr

/-- The colour type of the control word (30_encoding.md R123). -/
inductive ColorType where
  | blank
  | reserved
  | rgba16
  | rgba32
  deriving DecidableEq, Repr

/-- The anti-aliasing mode of the control word (30_encoding.md R123). -/
inductive AaMode where
  | resampExtraAlways
  | resampExtra
  | resampOnly
  | replicate
  deriving DecidableEq, Repr

/-- `VIControl`, the decoded control word (10_state.md R32). -/
structure Ctrl where
  ctype : ColorType
  aaMode : AaMode
  gamma : Bool
  gammaDither : Bool
  divot : Bool
  vbusClock : Bool
  serrate : Bool
  testMode : Bool
  killWe : Bool
  ditherFilter : Bool
  deriving DecidableEq, Repr

end Sys2Proof
end

