-- ==== Sys2Proof/WellFormed.lean ====
section
/-! DEFINITION. Which operations are well formed: the operand ranges the spec states that the
operand types do not already carry. -/

namespace Sys2Proof

/-- The operand checks, each with its rule; an operation with no check is always well formed. -/
def Instr.wf : Instr → Bool
  -- a cache holds columns from -1 up (10_state.md R45)
  | .rawNeed _ _ c => decide (-1 ≤ c)
  -- a divot cache is filled from the raw cache of the same row (43_pipeline_filtered.md R286)
  | .divNeed d r c => decide (d = r) && decide (-1 ≤ c)
  | .sel _ k => decide (-1 ≤ k)
  -- the current source column is never negative (43_pipeline_filtered.md R282)
  | .needs cur => decide (0 ≤ cur)
  | .blend cur _ _ => decide (0 ≤ cur)
  | .lerp3 cur _ _ => decide (0 ≤ cur)
  -- a prescale word is `pack(r, g, b)`: bits 31:24 are 0 (00_scope.md R16, 10_state.md R42)
  | .write _ _ v => decide (v.extractLsb' 24 8 = 0#8)
  -- the anti-aliasing filter is called for partly covered pixels only (41_filters.md R193)
  | .aaFilter _ _ _ cvg => decide (cvg ≠ 7#3)
  | .dispInit | .dispWcount | .dispTeardown | .cfgwr _ | .update | .snapreq _
  | .pipeFilt | .fastColor16 | .fastColor32 | .fastDepth | .fastCvg
  | .fetch16 | .fetch32 | .fetchBlank
  | .aaResampExtraAlways | .aaResampExtra | .aaResampOnly | .aaReplicate
  | .restoreOn | .divotOn | .gammaOff | .gammaDither | .gammaTable | .gammaTableDither
  | .fieldInterlaced | .composeFull | .composeCrop | .widescreen
  | .reset | .dispRun _
  | .resSnap | .resExtent | .resCtrl | .resTv | .resHporch | .resHclamp0 | .resField
  | .resVporch | .resCanvas | .resVactive | .resBorder | .resSkip | .resPtr | .resFit
  | .taskFilt _ | .scanline _ | .column _ _ | .cacheNew
  | .fetch _ | .restoreFilter _ _ _ | .divot _ _ _ | .lerp _ _ _ | .gamma _ _ _
  | .fastGeom | .fastFit | .taskFast _ | .modesw | .composeFast
  | .sink | .snapshot | .bmp | .present => true

end Sys2Proof
end

