-- ==== Sys2Proof/Decode.lean ====
section
/-! DEFINITION. Decoding and encoding (30_encoding.md): the register words (R121 to R131), the
configuration word (R135), the command word (R136), the mode word and the operation map (R140,
R141). Every decode is a pure, total function of the word; bits outside the fields are ignored. -/

namespace Sys2Proof

/-! ## Register words -/

/-- `VI_CONTROL` bits 1:0 (R123). -/
def decodeColorType (t : BitVec 2) : ColorType :=
  if t = 0#2 then .blank else if t = 1#2 then .reserved else if t = 2#2 then .rgba16 else .rgba32

/-- `VI_CONTROL` bits 9:8 (R123). -/
def decodeAaMode (t : BitVec 2) : AaMode :=
  if t = 0#2 then .resampExtraAlways else if t = 1#2 then .resampExtra
  else if t = 2#2 then .resampOnly else .replicate

/-- `DecodeCtrl` (R122). -/
def decodeCtrl (w : Word) : Ctrl where
  ctype := decodeColorType (w.extractLsb' 0 2)
  gammaDither := w.getLsbD 2
  gamma := w.getLsbD 3
  divot := w.getLsbD 4
  vbusClock := w.getLsbD 5
  serrate := w.getLsbD 6
  testMode := w.getLsbD 7
  aaMode := decodeAaMode (w.extractLsb' 8 2)
  killWe := w.getLsbD 11
  ditherFilter := w.getLsbD 16

/-- `VI_ORIGIN` bits 23:0, the framebuffer byte address (R124). -/
def fieldOrigin (w : Word) : BitVec 24 := w.extractLsb' 0 24
/-- `VI_WIDTH` bits 11:0, the row stride in pixels (R125). -/
def fieldWidth (w : Word) : Nat := (w.extractLsb' 0 12).toNat
/-- `VI_V_CURRENT_LINE` bit 0, the current-scanline parity (R126). -/
def fieldParity (w : Word) : Bool := w.getLsbD 0
/-- `VI_V_SYNC` bits 9:0, the sync length in half-lines (R127). -/
def fieldVSync (w : Word) : Nat := (w.extractLsb' 0 10).toNat
/-- `VI_H_START`, `VI_V_START` bits 25:16, the start (R128, R129). -/
def fieldStart (w : Word) : BitVec 10 := w.extractLsb' 16 10
/-- `VI_H_START`, `VI_V_START` bits 9:0, the end (R128, R129). -/
def fieldEnd (w : Word) : BitVec 10 := w.extractLsb' 0 10
/-- `VI_X_SCALE`, `VI_Y_SCALE` bits 11:0, the scale increment, unsigned 2.10 (R130, R131). -/
def fieldAdd (w : Word) : Nat := (w.extractLsb' 0 12).toNat
/-- `VI_X_SCALE`, `VI_Y_SCALE` bits 27:16, the accumulator's initial value (R130, R131). -/
def fieldOffset (w : Word) : Nat := (w.extractLsb' 16 12).toNat

/-! ## The configuration word -/

/-- Intents by their number (R135). -/
def decodeIntent (t : BitVec 2) : Intent :=
  if t = 0#2 then .normal else if t = 1#2 then .colorFast
  else if t = 2#2 then .depthFast else .coverageFast

/-- The number of an intent (R135). -/
def encodeIntent : Intent → BitVec 2
  | .normal => 0#2
  | .colorFast => 1#2
  | .depthFast => 2#2
  | .coverageFast => 3#2

/-- `CFGW` decoded (R135); bits 7:4 and 31:16 are ignored. -/
def decodeCfgw (w : Word) : Cfg where
  intent := decodeIntent (w.extractLsb' 0 2)
  widescreen := w.getLsbD 2
  hideOverscan := w.getLsbD 3
  workersReq := w.extractLsb' 8 8

/-- `CFGW` of a configuration (R135); bits 7:4 and 31:16 written 0. -/
def encodeCfgw (c : Cfg) : Word :=
  0#16 ++ c.workersReq ++ 0#4 ++ BitVec.ofBool c.hideOverscan ++ BitVec.ofBool c.widescreen
    ++ encodeIntent c.intent

/-! ## The command word -/

/-- Why a word selects no operation. -/
inductive DecodeError where
  /-- A `CMD` word with a reserved `op` (R142 (d)). -/
  | reservedOp (op : Byte)
  /-- No row of the stage matches the mode word (R141). -/
  | noModeRow (stage : Stage)
  deriving DecidableEq, Repr

/-- `CMD` decoded (R136): `op` in bits 7:0, `arg` in bits 31:8; `path` is the byte string passed
beside the word. `arg` is read by `CFGWR` only (log 13). -/
def decodeCmd (w : Word) (path : List Byte) : Except DecodeError Instr :=
  let op := w.extractLsb' 0 8
  if op = 0x01#8 then .ok .dispInit
  else if op = 0x02#8 then .ok .dispWcount
  else if op = 0x03#8 then .ok .dispTeardown
  else if op = 0x10#8 then .ok (.cfgwr (w.extractLsb' 8 24))
  else if op = 0x11#8 then .ok .update
  else if op = 0x12#8 then .ok (.snapreq path)
  else .error (.reservedOp op)

/-! ## The mode word and the operation map -/

/-- `M[31:0] = REG[0]`, `M[63:32] = CFGW` (R140). -/
def makeModeWord (cfg : Cfg) (control : Word) : ModeWord := encodeCfgw cfg ++ control

/-- One `MODE` row of the operation map (R141). -/
structure ModeRow where
  stage : Stage
  mask : ModeWord
  value : ModeWord
  instr : Instr
  deriving DecidableEq, Repr

/-- Does the row's operation match the mode word: `(M & mask) = match` (R140). -/
def ModeRow.hits (r : ModeRow) (m : ModeWord) : Bool := m &&& r.mask == r.value

/-- The 22 `MODE` rows, in the table's order (R141). -/
def modeRows : List ModeRow :=
  [ ⟨.pipeline, 0x300000000, 0x000000000, .pipeFilt⟩,
    ⟨.pipeline, 0x300000003, 0x100000002, .fastColor16⟩,
    ⟨.pipeline, 0x300000003, 0x100000003, .fastColor32⟩,
    ⟨.pipeline, 0x300000000, 0x200000000, .fastDepth⟩,
    ⟨.pipeline, 0x300000000, 0x300000000, .fastCvg⟩,
    ⟨.fetch, 0x300000003, 0x000000002, .fetch16⟩,
    ⟨.fetch, 0x300000003, 0x000000003, .fetch32⟩,
    ⟨.fetch, 0x300000002, 0x000000000, .fetchBlank⟩,
    ⟨.blend, 0x300000300, 0x000000000, .aaResampExtraAlways⟩,
    ⟨.blend, 0x300000300, 0x000000100, .aaResampExtra⟩,
    ⟨.blend, 0x300000300, 0x000000200, .aaResampOnly⟩,
    ⟨.blend, 0x300000300, 0x000000300, .aaReplicate⟩,
    ⟨.restore, 0x300010000, 0x000010000, .restoreOn⟩,
    ⟨.divot, 0x300000010, 0x000000010, .divotOn⟩ ]
  ++
  [ ⟨.gamma, 0x00000000C, 0x000000000, .gammaOff⟩,
    ⟨.gamma, 0x00000000C, 0x000000004, .gammaDither⟩,
    ⟨.gamma, 0x00000000C, 0x000000008, .gammaTable⟩,
    ⟨.gamma, 0x00000000C, 0x00000000C, .gammaTableDither⟩,
    ⟨.field, 0x300000042, 0x000000042, .fieldInterlaced⟩,
    ⟨.compose, 0xB00000000, 0x000000000, .composeFull⟩,
    ⟨.compose, 0xB00000000, 0x800000000, .composeCrop⟩,
    ⟨.widescreen, 0x400000000, 0x400000000, .widescreen⟩ ]

/-- The row a stage selects for a mode word (R141). -/
def decodeMode (st : Stage) (m : ModeWord) : Except DecodeError Instr :=
  match modeRows.find? (fun r => r.stage == st && r.hits m) with
  | some r => .ok r.instr
  | none => .error (.noModeRow st)

/-- A stage whose row has no listed complement: where it does not match, the stage is a no-op
(R141). -/
def Stage.optional : Stage → Bool
  | .restore | .divot | .field | .widescreen => true
  | .pipeline | .fetch | .blend | .gamma | .compose => false

/-! ## The encoder -/

/-- What an operation's row of the opcode table encodes: a command word with the byte string
beside it, a stage with the mode word's fixed bits, or nothing (a `SEQ` row "is selected by
nothing", R141). -/
inductive Encoding where
  | cmd (w : Word) (path : List Byte)
  | mode (stage : Stage) (m : ModeWord)
  | seq
  deriving DecidableEq, Repr

/-- `CMD = (arg << 8) | op` (R136). -/
def cmdWord (arg : BitVec 24) (op : Byte) : Word := arg ++ op

/-- The encoding of an operation, from the tables of R136 and R141. -/
def encode : Instr → Encoding
  | .dispInit => .cmd (cmdWord 0 0x01) []
  | .dispWcount => .cmd (cmdWord 0 0x02) []
  | .dispTeardown => .cmd (cmdWord 0 0x03) []
  | .cfgwr arg => .cmd (cmdWord arg 0x10) []
  | .update => .cmd (cmdWord 0 0x11) []
  | .snapreq path => .cmd (cmdWord 0 0x12) path
  | .pipeFilt => .mode .pipeline 0x0
  | .fastColor16 => .mode .pipeline 0x100000002
  | .fastColor32 => .mode .pipeline 0x100000003
  | .fastDepth => .mode .pipeline 0x200000000
  | .fastCvg => .mode .pipeline 0x300000000
  | .fetch16 => .mode .fetch 0x2
  | .fetch32 => .mode .fetch 0x3
  | .fetchBlank => .mode .fetch 0x0
  | .aaResampExtraAlways => .mode .blend 0x0
  | .aaResampExtra => .mode .blend 0x100
  | .aaResampOnly => .mode .blend 0x200
  | .aaReplicate => .mode .blend 0x300
  | .restoreOn => .mode .restore 0x10000
  | .divotOn => .mode .divot 0x10
  | .gammaOff => .mode .gamma 0x0
  | .gammaDither => .mode .gamma 0x4
  | .gammaTable => .mode .gamma 0x8
  | .gammaTableDither => .mode .gamma 0xC
  | .fieldInterlaced => .mode .field 0x42
  | .composeFull => .mode .compose 0x0
  | .composeCrop => .mode .compose 0x800000000
  | .widescreen => .mode .widescreen 0x400000000
  | .reset | .dispRun _
  | .resSnap | .resExtent | .resCtrl | .resTv | .resHporch | .resHclamp0 | .resField
  | .resVporch | .resCanvas | .resVactive | .resBorder | .resSkip | .resPtr | .resFit
  | .taskFilt _ | .scanline _ | .column _ _ | .cacheNew | .rawNeed _ _ _ | .divNeed _ _ _
  | .needs _ | .sel _ _ | .blend _ _ _ | .lerp3 _ _ _ | .write _ _ _ | .fetch _
  | .aaFilter _ _ _ _ | .restoreFilter _ _ _ | .divot _ _ _ | .lerp _ _ _ | .gamma _ _ _
  | .fastGeom | .fastFit | .taskFast _ | .modesw | .composeFast
  | .sink | .snapshot | .bmp | .present => .seq

/-- The decoder, on an encoding: a command word or a mode word at its stage. -/
def decodeEncoding : Encoding → Option Instr
  | .cmd w path => (decodeCmd w path).toOption
  | .mode st m => (decodeMode st m).toOption
  | .seq => none

/-- The control word of a `VIControl` (R122, R145's `.ctrl`), the ignored bits 0. -/
def encodeCtrl (c : Ctrl) : Word :=
  let t : BitVec 2 := match c.ctype with
    | .blank => 0#2 | .reserved => 1#2 | .rgba16 => 2#2 | .rgba32 => 3#2
  let a : BitVec 2 := match c.aaMode with
    | .resampExtraAlways => 0#2 | .resampExtra => 1#2 | .resampOnly => 2#2 | .replicate => 3#2
  0#15 ++ BitVec.ofBool c.ditherFilter ++ 0#4 ++ BitVec.ofBool c.killWe ++ 0#1 ++ a
    ++ BitVec.ofBool c.testMode ++ BitVec.ofBool c.serrate ++ BitVec.ofBool c.vbusClock
    ++ BitVec.ofBool c.divot ++ BitVec.ofBool c.gamma ++ BitVec.ofBool c.gammaDither ++ t

/-! ## One word of the opcode table -/

/-- How many bits of a word are 1. -/
def countOnes (m : ModeWord) : Nat := (List.range 64).countP m.getLsbD

/-- Of the rows that match a mode word, the one with most bits of its match set, the first in the
table's order among equals. A mode word alone names no stage, and inside the machine the stage is
always known; this choice serves `decodeTableWord` only (DESIGN CHOICE, log 12). -/
def tableRow (m : ModeWord) : Option ModeRow :=
  (modeRows.filter (·.hits m)).foldl (init := none) fun best r =>
    match best with
    | none => some r
    | some b => if countOnes b.value < countOnes r.value then some r else some b

/-- The operation the decoder reads from one word of the opcode table, `nbits` bits long. Up to 32
bits the table holds the `CMD` rows and the four rows of the gamma stage; above, mode words. -/
def decodeTableWord (nbits w : Nat) : Option Instr :=
  if nbits ≤ 32 then
    match decodeCmd (BitVec.ofNat 32 w) [] with
    | .ok i => some i
    | .error _ => (decodeMode .gamma (BitVec.ofNat 64 w)).toOption
  else (tableRow (BitVec.ofNat 64 w)).map (·.instr)

end Sys2Proof
end

