-- ==== Sys2Proof/Config.lean ====
section
/-! DEFINITION. The implementation parameters of 00_scope.md R10, all in one place: the named
constants with the values R10 gives them, the parameters R10 gives a default (taken at the
default), and the OPEN parameters, which have no body: nothing can be proved of their values. -/

namespace Sys2Proof.Config

/-- Fraction bits of every scale accumulator. -/
abbrev fracBits : Nat := 10
/-- The fixed-point unity value, `1 << FRAC_BITS`. -/
abbrev unity : Int := 0x400
/-- Maximum canvas width, columns. -/
abbrev maxW : Int := 640
/-- Maximum canvas height, rows. -/
abbrev maxH : Int := 625
/-- `MAXW * MAXH`, the size of the prescale buffer in words (10_state.md R42). -/
abbrev prescaleWords : Int := 400000
/-- NTSC nominal sync length, half-lines. -/
abbrev ntscSync : Int := 525
/-- PAL nominal sync length, half-lines. -/
abbrev palSync : Int := 625
/-- `v_sync > PAL_THRESHOLD` classifies PAL. -/
abbrev palThreshold : Nat := 550
/-- Horizontal back-porch offset, NTSC. -/
abbrev hOffsetNtsc : Int := 108
/-- Horizontal back-porch offset, PAL. -/
abbrev hOffsetPal : Int := 128
/-- Vertical back-porch offset, NTSC, half-lines. -/
abbrev vOffsetNtsc : Int := 34
/-- Vertical back-porch offset, PAL, half-lines. -/
abbrev vOffsetPal : Int := 44
/-- Columns blacked at the left edge. -/
abbrev borderLeft : Int := 8
/-- Columns blacked at the right edge. -/
abbrev borderRight : Int := 7
/-- Widescreen compression ratio, numerator. -/
abbrev wideNum : Int := 9
/-- Widescreen compression ratio, denominator. -/
abbrev wideDen : Int := 16

/-- The memory's limit in bytes that `State.reset` starts from: every halfword and word index
is backed. DESIGN CHOICE, unsafe (log 4): the spec gives no memory size (91 N31). -/
abbrev memLimitAtReset : Nat := 2 ^ 34

/-- `MEM_OOR`: what a read of an index beyond the memory's limit returns; R10's default,
the constant 0. DESIGN CHOICE, unsafe (log 4). -/
def memOor (_index : Word) : Word := 0

/-- OPEN (D19): one less than `HW_PARALLELISM`, so that `HW_PARALLELISM >= 1` holds and
nothing else is known of it. DESIGN CHOICE, safe (log 5). -/
opaque hwParallelismLessOne : Nat

/-- `HW_PARALLELISM >= 1`: what "auto-detect available hardware parallelism" returns. -/
def hwParallelism : Nat := hwParallelismLessOne + 1

/-- OPEN (D39): `DITHER_NOISE(y, x)`, a total function of the output coordinates to 15-bit
words (41_filters.md R205). DESIGN CHOICE, safe (log 6). -/
opaque ditherNoise : Nat → Nat → BitVec 15

/-- OPEN (D55): `FILE_OPENS(path)`, whether the path can be opened for writing
(45_composition.md R353). DESIGN CHOICE, safe (log 7). -/
opaque fileOpens : List Byte → Bool

/-- OPEN (40_dispatcher.md R165): the free choice of the worker that moves next, applied to the
counter `State.tick`. DESIGN CHOICE, safe (log 8). -/
opaque schedule : Nat → Nat

end Sys2Proof.Config
end

