-- ==== Sys2Proof/Machine/Operands.lean ====
section
/-! DEFINITION. Operand forms: the arithmetic of 00_scope.md R13, R14, the pixel formats and the
coverage assembly of 30_encoding.md R133, R134, and index arithmetic (20_memory.md R85, R86). -/

namespace Sys2Proof.Machine

/-! ## Integers and fixed point -/

/-- `asr(a, n)`: `floor(a / 2^n)` (00_scope.md R14). -/
def asr (a : Int) (n : Nat) : Int := a / 2 ^ n

/-- `tdiv(a, b)`: division truncating toward zero (00_scope.md R14). -/
def tdiv (a b : Int) : Int := Int.tdiv a b

/-- `int(acc) = acc >> 10`, the source column or row of an accumulator (00_scope.md R13). -/
def accInt (acc : Int) : Int := acc / 2 ^ Config.fracBits

/-- `frac10(acc) = acc[9:0]` (00_scope.md R13). -/
def frac10 (acc : Int) : BitVec 10 := BitVec.ofInt 10 acc

/-- `wt(acc) = acc[9:5]`, the blend weight (00_scope.md R13). -/
def wt (acc : Int) : BitVec 5 := BitVec.ofInt 5 (acc / 32)

/-- `median3`, the middle value of three (00_scope.md R14). -/
def median3 (a b c : Byte) : Byte :=
  if a ≤ b then (if b ≤ c then b else if a ≤ c then c else a)
  else (if a ≤ c then a else if b ≤ c then c else b)

/-! ## Pixels -/

/-- `pack(r, g, b)`, the prescale pixel (00_scope.md R16). -/
def pack (c : RGB) : Word := 0#8 ++ c.r ++ c.g ++ c.b

/-- Channel expansion of a 5-bit channel: left shift by 3 with zero fill (R133). -/
def expand5 (v : BitVec 5) : Byte := v ++ 0#3

/-- The three 5-bit channels of a 16-bit pixel (R133). -/
def chan5Of16 (pix : Half) : BitVec 5 × BitVec 5 × BitVec 5 :=
  (pix.extractLsb' 11 5, pix.extractLsb' 6 5, pix.extractLsb' 1 5)

/-- The colour of a 16-bit pixel (R133). -/
def rgb16 (pix : Half) : RGB :=
  ⟨expand5 (pix.extractLsb' 11 5), expand5 (pix.extractLsb' 6 5), expand5 (pix.extractLsb' 1 5)⟩

/-- The colour of a 32-bit pixel (R133). -/
def rgb32 (pix : Word) : RGB :=
  ⟨pix.extractLsb' 24 8, pix.extractLsb' 16 8, pix.extractLsb' 8 8⟩

/-- The three 5-bit channels the restore filter takes of a 32-bit pixel (41_filters.md R198). -/
def chan5Of32 (pix : Word) : BitVec 5 × BitVec 5 × BitVec 5 :=
  (pix.extractLsb' 27 5, pix.extractLsb' 19 5, pix.extractLsb' 11 5)

/-- `cvg = (pix[0] << 2) | aux[1:0]` (R134). -/
def cvg16 (pix : Half) (aux : Byte) : BitVec 3 := pix.extractLsb' 0 1 ++ aux.extractLsb' 0 2

/-- `cvg = pix[7:5]` (R134). -/
def cvg32 (pix : Word) : BitVec 3 := pix.extractLsb' 5 3

/-- A colour with a coverage. -/
def withCvg (c : RGB) (cvg : BitVec 3) : CCVG := ⟨c.r, c.g, c.b, cvg⟩

/-! ## Indices -/

/-- A memory index: base and offset summed, reduced modulo 2^32 (20_memory.md R85). -/
def memIndex (base offset : Int) : Word := BitVec.ofInt 32 (base + offset)

/-- `fb16 = G.origin >> 1`, `zb16 = ZB_ORIGIN >> 1` (20_memory.md R86). -/
def base16 (origin : BitVec 24) : Int := (origin.toNat / 2 : Nat)

/-- `fb32 = G.origin >> 2` (20_memory.md R86). -/
def base32 (origin : BitVec 24) : Int := (origin.toNat / 4 : Nat)

end Sys2Proof.Machine
end

