-- ==== Sys2Proof/Machine/State.lean ====
section
/-! DEFINITION. The state of VI-RSE as plain data (10_state.md), the reasons a step can stop, and
the state right after reset. A field that is the model's own and no state of the spec says so. -/

namespace Sys2Proof.Machine

/-! ## Memories -/

/-- A memory of bytes: (address, byte) pairs, addresses strictly rising, no byte equal to 0, which
is what an unlisted address reads as (log 1). Its operations are in Machine/Ops.lean. -/
abbrev Memory := List Host.Cell

/-- The prescale buffer in the same canonical form: (index, word) pairs, indices strictly rising,
no word equal to 0, the value 10_state.md R42 gives every word at reset (log 27). -/
abbrev Prescale := List (Nat × Word)

/-! ## External state -/

/-- `HardwareRegisters` (10_state.md R30), the 14 words in the order of their indices. -/
structure Regs where
  control : Word
  origin : Word
  width : Word
  intr : Word
  vCurrentLine : Word
  timing : Word
  vSync : Word
  hSync : Word
  leap : Word
  hStart : Word
  vStart : Word
  vBurst : Word
  xScale : Word
  yScale : Word
  deriving DecidableEq, Repr

/-- The names of the 14 words (10_state.md R30). -/
inductive RegName where
  | control
  | origin
  | width
  | intr
  | vCurrentLine
  | timing
  | vSync
  | hSync
  | leap
  | hStart
  | vStart
  | vBurst
  | xScale
  | yScale
  deriving DecidableEq, Repr

/-- The `f` of the script's directive `.noise f` (30_encoding.md R144), a function of the output
coordinates as plain data. The forms are the model's: the spec gives `f` no syntax (DESIGN CHOICE,
log 31). With `point` every function on any finite set of coordinates can be written. -/
inductive NoiseFn where
  /-- `(a*y + b*x + c) mod 32768`, the form of the spec's own vectors. -/
  | affine (a b c : Nat)
  /-- `v` at `(y, x)`, and `rest` everywhere else. -/
  | point (y x : Nat) (v : BitVec 15) (rest : NoiseFn)
  deriving DecidableEq, Repr

/-- An action of the host: a command, or a write of external state (30_encoding.md R144). The
directive `.noise` is none: it fixes a parameter before the script runs (Script.lean, log 31). -/
inductive HostAction where
  /-- A `CMD` word with the byte string passed beside it (R136). -/
  | command (w : Word) (path : List Byte)
  /-- `.reg NAME, v` -/
  | reg (name : RegName) (v : Word)
  /-- `.mem16 i, v` -/
  | mem16 (i : Word) (v : Half)
  /-- `.mem32 j, v` -/
  | mem32 (j : Word) (v : Word)
  /-- `.aux i, v` -/
  | aux (i : Word) (v : Byte)
  /-- `.zb v` -/
  | zb (v : BitVec 24)
  deriving DecidableEq, Repr

/-- What the environment does at one step. -/
inductive EnvEvent where
  /-- Nothing. -/
  | quiet
  /-- `RESET` (70_reset_and_hazards.md R430). -/
  | reset
  /-- The failure of a worker (40_dispatcher.md R171). -/
  | workerFailure (wid : Nat)
  deriving DecidableEq, Repr

/-! ## Engine state -/

/-- The sequencing state, the stand-in for a program counter (10_state.md R50). -/
inductive Phase where
  | idle
  | resolve
  | render
  | compose
  | halted
  deriving DecidableEq, Repr

/-- Who controls field parity (10_state.md R36). -/
inductive Authority where
  | undetermined
  | software
  | hardware
  deriving DecidableEq, Repr

/-- `IS`, the cross-frame state of the field state machine (10_state.md R36). -/
structure Interlace where
  prevParity : Bool
  prevSerrate : Bool
  oldVStart : BitVec 10
  oldLowerfield : Bool
  authority : Authority
  deriving DecidableEq, Repr

/-- `WARNED`, the one-time-warning flags (10_state.md R37). -/
structure Warned where
  vbus : Bool
  nolerp16 : Bool
  deriving DecidableEq, Repr

/-- `SNAPREQ` (10_state.md R39). -/
structure SnapReq where
  pending : Bool
  path : List Byte
  deriving DecidableEq, Repr

/-- `FAULT` (10_state.md R43). -/
structure FaultReg where
  valid : Bool
  code : Byte
  info : Word
  deriving DecidableEq, Repr

/-- `G`, the frame geometry (10_state.md R40, with the flags of R41). -/
structure Geometry where
  hStart : Int
  hres : Int
  vStart : Int
  vStartRaw : BitVec 10
  vres : Int
  xAdd : Int
  xStart : Int
  yAdd : Int
  yStart : Int
  vSync : Nat
  width : Nat
  origin : BitVec 24
  parity : Bool
  ispal : Bool
  hasData : Bool
  validInterlace : Bool
  lowerfield : Bool
  hStartClamped : Bool
  hresClamped : Bool
  vresClamped : Bool
  vactive : Int
  minhpass : Int
  maxhpass : Int
  linecount : Int
  prescalePtr : Int
  hresRaw : Int
  vresRaw : Int
  deriving DecidableEq, Repr

/-- `OutputFrameDescriptor` (10_state.md R47). -/
structure Desc where
  ptr : Int
  width : Int
  height : Int
  pitch : Int
  targetHeight : Int
  deriving DecidableEq, Repr

/-! ## Dispatcher and workers -/

/-- The life cycle of the dispatcher (10_state.md R44, 40_dispatcher.md R160). -/
inductive DispState where
  | unconstructed
  | ready
  | running
  | stopping
  | tornDown
  deriving DecidableEq, Repr

/-- A worker's state in the current round (10_state.md R44). -/
inductive WStat where
  | idle
  | pending
  | busy
  | done
  deriving DecidableEq, Repr

/-- `DISP` (10_state.md R44). `stopReq` remembers a `DISP.TEARDOWN` that waits for the round in
flight (40_dispatcher.md R160, R169, log 21). -/
structure Disp where
  state : DispState
  w : Nat
  task : Option Task
  wstat : List WStat
  stopReq : Bool
  deriving DecidableEq, Repr

/-- One operation issued and not yet run: the model's own rendering of the sequencing position
(10_state.md R50, 30_encoding.md R120, log 11). -/
inductive SeqOp where
  /-- An operation of the opcode table. -/
  | op (i : Instr)
  /-- The row the mode word selects at a stage (30_encoding.md R141). -/
  | stage (st : Stage)
  /-- `phase <- P` (00_scope.md R15). -/
  | phase (p : Phase)
  /-- One pixel of `TASK_FAST`'s inner loop (44_pipeline_fast.md R322). -/
  | fastPixel (y x : Nat)
  /-- `if SNAPREQ.pending = 1: SNAPSHOT(d)` (45_composition.md R340). -/
  | snapshotIfPending
  /-- Every worker has exited: `Stopping` to `TornDown` (40_dispatcher.md R160, R169). -/
  | joinWorkers
  /-- `phase <- Idle`, the end of a completed update (45_composition.md R340). -/
  | finish
  deriving DecidableEq, Repr

/-- A scanline cache: the columns filled so far, newest first, and the fill marker
(10_state.md R45). -/
structure Cache where
  cells : List (Int × CCVG)
  mark : Int
  deriving DecidableEq, Repr

/-- One worker (10_state.md R45, R46, R51). `seq`, `num`, `selRow`, `selCol`, `sample`, `colour`
and `rgb` are the model's own: the worker's position in its task (log 11) and the operand and
result registers of the pixel functions (log 19). -/
structure Worker where
  seq : List SeqOp
  y : Nat
  x : Nat
  curry : Int
  xacc : Int
  srow : Int
  lineX : Int
  yfrac : BitVec 5
  xfrac : BitVec 5
  pixels : Int
  nextpixels : Int
  rawc : Cache
  rawn : Cache
  divc : Cache
  divn : Cache
  num : Int
  selRow : SrcRow
  selCol : Int
  sample : CCVG
  colour : CCVG
  rgb : RGB
  deriving DecidableEq, Repr

/-! ## Outcomes of an update, and the output history -/

/-- The causes of a fatal error (60_exceptions.md R382). -/
inductive FatalCause where
  | colorType
  | syncTooBig
  | illegalState
  | workerFailure
  | prescaleOverflow
  | fastOverflow
  deriving DecidableEq, Repr

/-- The causes of a skip (60_exceptions.md R389). -/
inductive SkipCause where
  | noActiveLines
  | blank
  | emptyWindow
  | nullOrigin
  | oddField
  | emptyCrop
  deriving DecidableEq, Repr

/-- The warnings (60_exceptions.md R393 to R395). -/
inductive WarnCause where
  | vbus
  | nolerp16
  | snapshotOpen
  deriving DecidableEq, Repr

/-- How an `UPDATE` ended (00_scope.md R17). -/
inductive UpdateOutcome where
  | ok
  | skip (c : SkipCause)
  | fault (c : FatalCause)
  deriving DecidableEq, Repr

/-- The kinds of a report (60_exceptions.md R397). -/
inductive ReportKind where
  | fatal
  | warning
  deriving DecidableEq, Repr

/-- The events of the output history (10_state.md R60). -/
inductive OutEvent where
  /-- `Sink(descriptor, pixels)`, the pixels row by row. -/
  | sink (d : Desc) (pixels : List (List Word))
  /-- `Present` -/
  | present
  /-- `File(path, bytes)` -/
  | file (path : List Byte) (bytes : List Byte)
  /-- `Report(kind, code, info)` -/
  | report (kind : ReportKind) (code : Byte) (info : Word)
  deriving DecidableEq, Repr

/-! ## The state -/

/-- The whole machine. -/
@[ext]
structure State where
  /-- `HardwareRegisters` (R30), external. -/
  regs : Regs
  /-- Emulated memory (R35, 20_memory.md R81), external: big-endian bytes. -/
  mem : Memory
  /-- The auxiliary coverage bytes, by halfword index (20_memory.md R84), external. -/
  aux : Memory
  /-- The memory's limit in bytes (20_memory.md R82), external. -/
  memLimit : Nat
  /-- `ZB_ORIGIN` (R34), external. -/
  zbOrigin : BitVec 24
  /-- The model's own, no state of the spec (R52): the parameter `DITHER_NOISE` as a script's `.noise f`
  fixes it (R144, 41_filters.md R205), `none` for the open parameter. It stands here because a step
  has no other argument; no step, host action or reset changes it (log 6, log 31). -/
  noise : Option NoiseFn
  /-- The model's own: the host's pending actions, oldest first (log 10). -/
  host : List HostAction
  /-- The model's own: the environment's event at each coming step (log 10). -/
  env : List EnvEvent
  /-- `CFG` (R33). -/
  cfg : Cfg
  /-- `phase` (R50). -/
  phase : Phase
  /-- `SNAP[0..13]` (R31). -/
  snap : Regs
  /-- `cfg`, the copy of `CFG` an `UPDATE` works with (45_composition.md R341). -/
  cfgCopy : Cfg
  /-- `G` (R40). -/
  geom : Geometry
  /-- `IS` (R36). -/
  interlace : Interlace
  /-- `WARNED` (R37). -/
  warned : Warned
  /-- `last_intent` (R38). -/
  lastIntent : Intent
  /-- `SNAPREQ` (R39). -/
  snapreq : SnapReq
  /-- `PRESCALE` (R42). -/
  prescale : Prescale
  /-- `FAULT` (R43). -/
  fault : FaultReg
  /-- `DISP` (R44). -/
  disp : Disp
  /-- The workers, worker `i` at place `i` (R45, R46, R51). -/
  workers : List Worker
  /-- The model's own: the worker whose step it is (log 11). -/
  me : Nat
  /-- The model's own: the engine control agent's operations issued and not yet run (log 11). -/
  seq : List SeqOp
  /-- `d`, the descriptor being composed (45_composition.md R340). -/
  desc : Desc
  /-- The model's own: the byte string `BMP(d)` computed (log 19). -/
  bmp : List Byte
  /-- The model's own: the value `DISP.WCOUNT` returned (log 19). -/
  ret : Option Nat
  /-- The model's own: the outcome of the last `UPDATE` (log 19). -/
  outcome : Option UpdateOutcome
  /-- `OUT` (R60). -/
  out : List OutEvent
  /-- The model's own: the counter the free choice of the next worker is applied to (log 8). -/
  tick : Nat
  deriving DecidableEq, Repr

/-! ## Why a step stops -/

/-- The model's own stops, each in states that no run from reset reaches (log 16). All are safe:
the machine stops where the spec says that the situation cannot arise. -/
inductive Fault where
  /-- Raised by the reads of a scanline cache when the column has not been filled
  (43_pipeline_filtered.md R285 (a), R286's `require`). Safe. -/
  | cacheUnfilled
  /-- Raised by a read or write of `PRESCALE` outside its 400000 words (20_memory.md R87). Safe. -/
  | prescaleIndex
  /-- Raised by `COMPOSE.*` when the divisor `G.v_sync` or `G.hres` is 0
  (45_composition.md R345, R347). Safe. -/
  | zeroDivisor
  /-- Raised by an operation of a worker when `me` names no worker. Safe. -/
  | noWorker
  /-- Raised by `step` when an update is in progress and nothing is left to run. Safe. -/
  | sequenceEnded
  deriving DecidableEq, Repr

/-- The refusals: the spec gives the operation no meaning (60_exceptions.md R390). -/
inductive Refusal where
  /-- Raised by `exec` for an instruction that has no meaning yet. Safe. -/
  | notModelled (mnemonic : String)
  /-- Raised by a host command or a host write while `FAULT.valid = 1` (R390, 10_state.md R43). Safe. -/
  | faulted
  /-- Raised by a host command or a host write while `phase` is not `Idle` (R390). Safe. -/
  | busy
  /-- Raised by a `CMD` word with a reserved `op` (30_encoding.md R142 (d)). Safe. -/
  | reservedOp (op : Byte)
  /-- Raised by `DISP.INIT`, `DISP.WCOUNT`, `DISP.TEARDOWN` in a dispatcher state R390 names. Safe. -/
  | dispatcherState
  /-- Raised by `DISP.RUN` while a round is in flight (40_dispatcher.md R167). Safe. -/
  | reentrantRun
  /-- Raised by a stage whose rows do not match the mode word, in states that no run reaches
  (30_encoding.md R141). Safe. -/
  | noModeRow (stage : Stage)
  deriving DecidableEq, Repr

/-- What one operation answers. -/
abbrev Out := Host.Outcome State Fault Refusal

/-! ## Reset values -/

/-- 14 words of 0. DESIGN CHOICE, unsafe (logs 2 and 3). -/
def Regs.zero : Regs := ⟨0, 0, 0, 0, 0, 0, 0, 0, 0, 0, 0, 0, 0, 0⟩

/-- `CFG` after reset (R65). -/
def resetCfg : Cfg := ⟨.normal, false, false, 0⟩

/-- `IS` after reset (R65). -/
def Interlace.reset : Interlace := ⟨false, false, 0, false, .undetermined⟩

/-- `G` before the first `UPDATE`: unspecified and unreadable (R65). DESIGN CHOICE, unsafe (log 3). -/
def Geometry.zero : Geometry where
  hStart := 0
  hres := 0
  vStart := 0
  vStartRaw := 0
  vres := 0
  xAdd := 0
  xStart := 0
  yAdd := 0
  yStart := 0
  vSync := 0
  width := 0
  origin := 0
  parity := false
  ispal := false
  hasData := false
  validInterlace := false
  lowerfield := false
  hStartClamped := false
  hresClamped := false
  vresClamped := false
  vactive := 0
  minhpass := 0
  maxhpass := 0
  linecount := 0
  prescalePtr := 0
  hresRaw := 0
  vresRaw := 0

/-- An empty cache. -/
def Cache.empty : Cache := ⟨[], 0⟩

/-- Black, not covered: the value a worker's result registers start from (log 3). -/
def blackCcvg : CCVG := ⟨0, 0, 0, 0⟩

/-- A worker no round has used yet. DESIGN CHOICE, unsafe (log 3). -/
def Worker.fresh : Worker where
  seq := []
  y := 0
  x := 0
  curry := 0
  xacc := 0
  srow := 0
  lineX := 0
  yfrac := 0
  xfrac := 0
  pixels := 0
  nextpixels := 0
  rawc := .empty
  rawn := .empty
  divc := .empty
  divn := .empty
  num := 0
  selRow := .current
  selCol := 0
  sample := blackCcvg
  colour := blackCcvg
  rgb := ⟨0, 0, 0⟩

/-- The machine right after reset (10_state.md R65, R66). -/
def State.reset : State where
  regs := .zero
  mem := []
  aux := []
  memLimit := Config.memLimitAtReset
  zbOrigin := 0
  noise := none
  host := []
  env := []
  cfg := resetCfg
  phase := .idle
  snap := .zero
  cfgCopy := resetCfg
  geom := .zero
  interlace := .reset
  warned := ⟨false, false⟩
  lastIntent := .normal
  snapreq := ⟨false, []⟩
  prescale := []
  fault := ⟨false, 0, 0⟩
  disp := ⟨.unconstructed, 0, none, [], false⟩
  workers := []
  me := 0
  seq := []
  desc := ⟨0, 0, 0, 0, 0⟩
  bmp := []
  ret := none
  outcome := none
  out := []
  tick := 0

end Sys2Proof.Machine
end

