-- ==== Sys2Proof/Machine/Flags.lean ====
section
/-! DEFINITION. The condition bits (10_state.md R41) and the codes of outcomes
(60_exceptions.md R382, R389, R393 to R395). There are no carry, zero, sign or overflow flags. -/

namespace Sys2Proof.Machine

/-- `has_data = type[1]`: true for the two pixel-carrying types (30_encoding.md R123). -/
def hasData : ColorType → Bool
  | .rgba16 | .rgba32 => true
  | .blank | .reserved => false

/-- The colour types the resolver recognises (42_resolver.md R232): all four that a 2-bit field
can hold, so the fatal test of R232 never fires (30_encoding.md R142 (a)). -/
def recognised : ColorType → Bool
  | .blank | .reserved | .rgba16 | .rgba32 => true

/-- `G.ispal`: the sync length is above the threshold (42_resolver.md R233). -/
def isPal (vSync : Nat) : Bool := decide (Config.palThreshold < vSync)

/-- `G.valid_interlace` (42_resolver.md R236). -/
def validInterlace (data serrate : Bool) : Bool := data && serrate

/-- The condition of `W_NOLERP16`, on the raw register fields (60_exceptions.md R394). -/
def nolerp16 (c : Ctrl) (hStart xAdd : Int) : Bool :=
  decide (c.aaMode = .replicate) && decide (c.ctype = .rgba16)
    && decide (hStart < 128) && decide (xAdd ≤ 0x200)

/-- Is output column `x` exempt from border zeroing (42_resolver.md R245). -/
def visible (g : Geometry) (x : Nat) : Bool :=
  decide (g.minhpass ≤ (x : Int)) && decide ((x : Int) < g.maxhpass)

/-- The code of a fatal error (60_exceptions.md R382). -/
def fatalCode : FatalCause → Byte
  | .colorType => 0x01
  | .syncTooBig => 0x02
  | .illegalState => 0x03
  | .workerFailure => 0x04
  | .prescaleOverflow => 0x05
  | .fastOverflow => 0x06

/-- The code of a skip (60_exceptions.md R389); no port carries it. -/
def skipCode : SkipCause → Byte
  | .noActiveLines => 0x11
  | .blank => 0x12
  | .emptyWindow => 0x13
  | .nullOrigin => 0x14
  | .oddField => 0x15
  | .emptyCrop => 0x16

/-- The code of a warning (60_exceptions.md R393 to R395). -/
def warnCode : WarnCause → Byte
  | .vbus => 0x21
  | .nolerp16 => 0x22
  | .snapshotOpen => 0x23

end Sys2Proof.Machine
end

