-- ==== Sys2Proof/Machine/Ops.lean ====
section
/-! DEFINITION. The shared operations over the state: the one write of each field, memory and the
prescale buffer, the pseudocode primitives of 00_scope.md R15, raising a fatal error, skipping a
frame, warning, the host port, the worker in turn, and issuing operations. -/

namespace Sys2Proof.Machine

/-! ## One write per field -/

def State.withRegs (s : State) (v : Regs) : State := { s with regs := v }
def State.withMem (s : State) (v : Memory) : State := { s with mem := v }
def State.withAux (s : State) (v : Memory) : State := { s with aux := v }
def State.withMemLimit (s : State) (v : Nat) : State := { s with memLimit := v }
def State.withZbOrigin (s : State) (v : BitVec 24) : State := { s with zbOrigin := v }
def State.withNoise (s : State) (v : Option NoiseFn) : State := { s with noise := v }
def State.withHost (s : State) (v : List HostAction) : State := { s with host := v }
def State.withEnv (s : State) (v : List EnvEvent) : State := { s with env := v }
def State.withCfg (s : State) (v : Cfg) : State := { s with cfg := v }
def State.withPhase (s : State) (v : Phase) : State := { s with phase := v }
def State.withSnap (s : State) (v : Regs) : State := { s with snap := v }
def State.withCfgCopy (s : State) (v : Cfg) : State := { s with cfgCopy := v }
def State.withGeom (s : State) (v : Geometry) : State := { s with geom := v }
def State.withInterlace (s : State) (v : Interlace) : State := { s with interlace := v }
def State.withWarned (s : State) (v : Warned) : State := { s with warned := v }
def State.withLastIntent (s : State) (v : Intent) : State := { s with lastIntent := v }
def State.withSnapreq (s : State) (v : SnapReq) : State := { s with snapreq := v }
def State.withPrescale (s : State) (v : Prescale) : State := { s with prescale := v }
def State.withFault (s : State) (v : FaultReg) : State := { s with fault := v }
def State.withDisp (s : State) (v : Disp) : State := { s with disp := v }
def State.withWorkers (s : State) (v : List Worker) : State := { s with workers := v }
def State.withMe (s : State) (v : Nat) : State := { s with me := v }
def State.withSeq (s : State) (v : List SeqOp) : State := { s with seq := v }
def State.withDesc (s : State) (v : Desc) : State := { s with desc := v }
def State.withBmp (s : State) (v : List Byte) : State := { s with bmp := v }
def State.withRet (s : State) (v : Option Nat) : State := { s with ret := v }
def State.withOutcome (s : State) (v : Option UpdateOutcome) : State := { s with outcome := v }
def State.withOut (s : State) (v : List OutEvent) : State := { s with out := v }
def State.withTick (s : State) (v : Nat) : State := { s with tick := v }

/-! ## Memories in canonical form (20_memory.md; log 1, log 27) -/

/-- What a canonical list holds at an address: the listed value, or 0 where nothing is listed. -/
def sparseGet {n : Nat} (m : List (Nat × BitVec n)) (a : Nat) : BitVec n :=
  match m with
  | [] => 0
  | (b, v) :: r => if a = b then v else sparseGet r a

/-- Write one address of a canonical list; writing 0 removes the entry. -/
def sparseSet {n : Nat} (m : List (Nat × BitVec n)) (a : Nat) (v : BitVec n) :
    List (Nat × BitVec n) :=
  match m with
  | [] => if v = 0 then [] else [(a, v)]
  | (b, u) :: r =>
    if a < b then (if v = 0 then (b, u) :: r else (a, v) :: (b, u) :: r)
    else if a = b then (if v = 0 then r else (a, v) :: r)
    else (b, u) :: sparseSet r a v

/-- Is every address of the list at least `lo`, strictly rising, with no value 0. -/
def sparseWfFrom {n : Nat} (lo : Nat) (m : List (Nat × BitVec n)) : Bool :=
  match m with
  | [] => true
  | (b, u) :: r => decide (lo ≤ b) && decide (u ≠ 0) && sparseWfFrom (b + 1) r

/-- The canonical form: addresses strictly rising, no entry equal to what an unlisted address
reads as. -/
def sparseWf {n : Nat} (m : List (Nat × BitVec n)) : Bool := sparseWfFrom 0 m

/-- The canonical form of a byte memory. -/
def Memory.wf (m : Memory) : Bool := sparseWf m

/-- The canonical form of the prescale buffer, and every index below 400000 (20_memory.md R87). -/
def Prescale.wf (p : Prescale) : Bool :=
  sparseWf p && p.all fun e => decide (e.1 < 400000)

/-! ## Reads of the snapshot -/

/-- `ctrl = DecodeCtrl(REG[0])` (10_state.md R32). -/
def State.ctrl (s : State) : Ctrl := decodeCtrl s.snap.control

/-- The mode word of the update in progress (30_encoding.md R140). -/
def State.mode (s : State) : ModeWord := makeModeWord s.cfgCopy s.snap.control

/-! ## Reads of emulated memory -/

/-- `MemRead16(i)` (20_memory.md R82): bytes `2i` and `2i+1`, big-endian (R81). -/
def memRead16 (s : State) (i : Word) : Half :=
  if 2 * i.toNat + 1 < s.memLimit then
    sparseGet s.mem (2 * i.toNat) ++ sparseGet s.mem (2 * i.toNat + 1)
  else (Config.memOor i).setWidth 16

/-- `MemRead32(j)` (20_memory.md R83): bytes `4j .. 4j+3`, big-endian (R81). For `j` of 2^31 and
above R81's bytes and its equation with the halfwords `2j` and `2j+1`, taken modulo 2^32 (R82),
disagree; the bytes are followed, so there the two views share no byte (DESIGN CHOICE, log 35). -/
def memRead32 (s : State) (j : Word) : Word :=
  if 4 * j.toNat + 3 < s.memLimit then
    sparseGet s.mem (4 * j.toNat) ++ sparseGet s.mem (4 * j.toNat + 1)
      ++ sparseGet s.mem (4 * j.toNat + 2) ++ sparseGet s.mem (4 * j.toNat + 3)
  else Config.memOor j

/-- `MemReadPair16(i)` (20_memory.md R84): the halfword and its auxiliary byte, `(MEM_OOR, 0)`
beyond the limit. -/
def memReadPair16 (s : State) (i : Word) : Half × Byte :=
  (memRead16 s i, if 2 * i.toNat + 1 < s.memLimit then sparseGet s.aux i.toNat else 0)

/-! ## The dither noise (41_filters.md R205) -/

/-- The noise word at `(y, x)` of a function that `.noise` fixes (30_encoding.md R144). -/
def noiseFnAt : NoiseFn → Nat → Nat → BitVec 15
  | .affine a b c, y, x => BitVec.ofNat 15 (a * y + b * x + c)
  | .point y0 x0 v rest, y, x => if y = y0 ∧ x = x0 then v else noiseFnAt rest y x

/-- `DITHER_NOISE(y, x)` (R205), the same for the life of the model: the open parameter, unless the
script that is run fixes it (log 31). -/
def ditherNoise (s : State) (y x : Nat) : BitVec 15 :=
  match s.noise with
  | none => Config.ditherNoise y x
  | some f => noiseFnAt f y x

/-! ## The prescale buffer -/

/-- `PRESCALE[i]` (20_memory.md R87, R88). -/
def prescaleGet (p : Prescale) (i : Nat) : Word := sparseGet p i

/-- `PRESCALE[i] <- v` (20_memory.md R87). -/
def writePrescale (i : Int) (v : Word) (s : State) : Out :=
  if 0 ≤ i ∧ i < Config.prescaleWords then .next (s.withPrescale (sparseSet s.prescale i.toNat v))
  else .fault .prescaleIndex

/-! ## Sequencing one operation after another -/

/-- How a step of a resolver ends: the sequence goes on, or a skip or a fatal error has ended the
update (42_resolver.md R250). -/
inductive Flow where
  | go (s : State)
  | ended (s : State)
  deriving DecidableEq, Repr

/-- The state a resolver step leaves, whether or not the update goes on. -/
def Flow.state : Flow → State
  | .go s => s
  | .ended s => s

/-- Run the next resolver step unless the update has ended. -/
def Flow.bind (o : Flow) (f : State → Flow) : Flow :=
  match o with
  | .go s => f s
  | .ended s => .ended s

/-! ## Events, fatal errors, skips, warnings -/

/-- `emit E` (00_scope.md R15): append an event to `OUT` (10_state.md R60). -/
def emit (e : OutEvent) (s : State) : State := s.withOut (s.out ++ [e])

/-- `raise Fatal(c, info)` (60_exceptions.md R381): the block's stand-in for taking an exception.
`info` is kept in 32 bits (log 26). Nothing of the sequence in progress runs afterwards. -/
def raiseFatal (c : FatalCause) (info : Int) (s : State) : State :=
  ((((emit (.report .fatal (fatalCode c) (BitVec.ofInt 32 info)) s).withFault
    ⟨true, fatalCode c, BitVec.ofInt 32 info⟩).withPhase .halted).withSeq []).withOutcome
      (some (.fault c))

/-- `skip(c)` (60_exceptions.md R388): silent; the update ends. The code is kept in the model's own
`outcome` (log 19). -/
def skipFrame (c : SkipCause) (s : State) : State :=
  ((s.withPhase .idle).withSeq []).withOutcome (some (.skip c))

/-- `warn(t, info)` (60_exceptions.md R395): a warning that is not once-only. -/
def warn (c : WarnCause) (info : Word) (s : State) : State :=
  emit (.report .warning (warnCode c) info) s

/-- `warn_once(W_VBUS)` (60_exceptions.md R392, R393). -/
def warnOnceVbus (s : State) : State :=
  if s.warned.vbus then s
  else warn .vbus 0 (s.withWarned { s.warned with vbus := true })

/-- `warn_once(W_NOLERP16)` (60_exceptions.md R392, R394). -/
def warnOnceNolerp16 (s : State) : State :=
  if s.warned.nolerp16 then s
  else warn .nolerp16 0 (s.withWarned { s.warned with nolerp16 := true })

/-! ## The host port -/

/-- Every host command and host write is refused while `FAULT.valid = 1` or `phase` is not `Idle`
(60_exceptions.md R390, 10_state.md R43); where both hold the fault is named (log 22). -/
def hostPort (s : State) (k : State → Out) : Out :=
  if s.fault.valid then .refused .faulted
  else if s.phase = .idle then k s
  else .refused .busy

/-! ## The worker in turn -/

/-- Run an operation of the worker in turn. -/
def onWorker (s : State) (k : Worker → Out) : Out :=
  match s.workers[s.me]? with
  | some w => k w
  | none => .fault .noWorker

/-- Replace the worker in turn. -/
def State.withWorker (s : State) (w : Worker) : State := s.withWorkers (s.workers.set s.me w)

/-! ## Issuing operations (30_encoding.md R120, log 11) -/

/-- The engine control agent issues operations: they run before what was issued earlier. -/
def issue (ops : List SeqOp) (s : State) : State := s.withSeq (ops ++ s.seq)

/-- A worker issues operations of its task. -/
def Worker.issue (ops : List SeqOp) (w : Worker) : Worker := { w with seq := ops ++ w.seq }

end Sys2Proof.Machine
end

