-- ==== Sys2Proof/Machine/Resolver.lean ====
section
/-! DEFINITION. The frame geometry resolver (42_resolver.md): RES.SNAP to RES.FIT and
FIELD.INTERLACED, one operation per rule, in the order of R250. -/

namespace Sys2Proof.Machine

/-! ## The steps -/

/-- `RES.SNAP` (R230): all 14 words at one instant. -/
def takeSnapshot (s : State) : State := s.withSnap s.regs

/-- The fields `RES.EXTENT` writes (R231), from the snapshot. -/
def extentOf (r : Regs) (g : Geometry) : Geometry :=
  { g with
    hStart := (fieldStart r.hStart).toNat
    hres := ((fieldEnd r.hStart).toNat : Int) - (fieldStart r.hStart).toNat
    vStartRaw := fieldStart r.vStart
    vStart := (fieldStart r.vStart).toNat
    vres := asr (((fieldEnd r.vStart).toNat : Int) - (fieldStart r.vStart).toNat) 1
    xAdd := fieldAdd r.xScale
    xStart := fieldOffset r.xScale
    yAdd := fieldAdd r.yScale
    yStart := fieldOffset r.yScale
    vSync := fieldVSync r.vSync
    parity := fieldParity r.vCurrentLine
    width := fieldWidth r.width
    origin := fieldOrigin r.origin
    hStartClamped := false
    hresClamped := false
    vresClamped := false }

/-- `RES.EXTENT` (R231). -/
def resolveExtent (s : State) : State := s.withGeom (extentOf s.snap s.geom)

/-- `RES.CTRL` (R232): the colour type is checked, then the two warnings. -/
def resolveCtrl (s : State) : Flow :=
  if recognised s.ctrl.ctype then
    let s1 := s.withGeom { s.geom with hasData := hasData s.ctrl.ctype }
    let s2 := if s.ctrl.vbusClock then warnOnceVbus s1 else s1
    .go (if nolerp16 s.ctrl s.geom.hStart s.geom.xAdd then warnOnceNolerp16 s2 else s2)
  else .ended (raiseFatal .colorType (s.snap.control.extractLsb' 0 2).toNat s)

/-- `RES.TV` (R233). -/
def resolveTv (s : State) : State := s.withGeom { s.geom with ispal := isPal s.geom.vSync }

/-- `RES.HPORCH` (R234). -/
def resolveHporch (s : State) : State :=
  s.withGeom { s.geom with
    hStart := s.geom.hStart
      - (if s.geom.ispal then Config.hOffsetPal else Config.hOffsetNtsc) }

/-- The geometry after the clamp at the left edge (R235). -/
def hclampOf (g : Geometry) : Geometry :=
  if g.hStart < 0 then
    { g with
      xStart := g.xStart + g.xAdd * (-g.hStart)
      hres := g.hres + g.hStart
      hStart := 0
      hStartClamped := true }
  else g

/-- `RES.HCLAMP0` (R235). -/
def resolveHclamp0 (s : State) : State := s.withGeom (hclampOf s.geom)

/-- The authority after the inference of R237. -/
def inferAuthority (is : Interlace) (parity : Bool) : Authority :=
  if is.prevSerrate ∧ is.authority = .undetermined then
    (if parity ≠ is.prevParity then .hardware else .software)
  else is.authority

/-- The field of a valid-interlaced frame (R238, R239, R242). -/
def fieldOf (is : Interlace) (a : Authority) (parity : Bool) (vStartRaw : BitVec 10) : Bool :=
  match a with
  | .hardware => !parity
  | .software =>
    if vStartRaw = is.oldVStart then !is.oldLowerfield else decide (vStartRaw < is.oldVStart)
  | .undetermined => false

/-- The valid-interlaced branch of `RES.FIELD` (R236: R237, R238 or R239 or R242, R240 (a)). -/
def fieldInterlaced (s : State) : State :=
  let a := inferAuthority s.interlace s.geom.parity
  let lower := fieldOf s.interlace a s.geom.parity s.geom.vStartRaw
  (s.withGeom { s.geom with validInterlace := true, lowerfield := lower }).withInterlace
    { prevParity := s.geom.parity
      prevSerrate := true
      oldVStart := s.geom.vStartRaw
      oldLowerfield := lower
      authority := a }

/-- The other branch of `RES.FIELD` (R236: R242, R240 (b)). -/
def fieldProgressive (s : State) : State :=
  (s.withGeom { s.geom with validInterlace := false, lowerfield := false }).withInterlace
    { s.interlace with prevSerrate := false }

/-- `RES.FIELD` (R236). -/
def resolveField (s : State) : State :=
  if validInterlace s.geom.hasData s.ctrl.serrate then fieldInterlaced s else fieldProgressive s

/-- `voff` (R241). -/
def vOffset (g : Geometry) : Int := if g.ispal then Config.vOffsetPal else Config.vOffsetNtsc

/-- The geometry after the vertical back-porch offset, the halving and the clamp (R241). -/
def vporchOf (g : Geometry) : Geometry :=
  let v := tdiv (g.vStart - vOffset g) 2
  if v < 0 then { g with yStart := g.yStart + g.yAdd * (-v), vStart := 0 }
  else { g with vStart := v }

/-- `RES.VPORCH` (R241). -/
def resolveVporch (s : State) : State := s.withGeom (vporchOf s.geom)

/-- The horizontal half of R243. -/
def canvasHOf (g : Geometry) : Geometry :=
  if g.hres + g.hStart > Config.maxW then
    { g with hres := Config.maxW - g.hStart, hresClamped := true }
  else g

/-- The vertical half of R243. -/
def canvasVOf (g : Geometry) : Geometry :=
  if g.vres + g.vStart > Config.maxH then
    { g with vres := Config.maxH - g.vStart, vresClamped := true }
  else g

/-- `RES.CANVAS` (R243). -/
def resolveCanvas (s : State) : State := s.withGeom (canvasVOf (canvasHOf s.geom))

/-- `RES.VACTIVE` (R244): the sync check. -/
def resolveVactive (s : State) : Flow :=
  let v : Int := s.geom.vSync - vOffset s.geom
  let s1 := s.withGeom { s.geom with vactive := v }
  if v > Config.maxH then .ended (raiseFatal .syncTooBig s.geom.vSync s1)
  else if v ≤ 0 then .ended (skipFrame .noActiveLines s1)
  else if s.ctrl.serrate then .go s1
  else .go (s.withGeom { s.geom with vactive := asr v 1 })

/-- `RES.BORDER` (R245). -/
def resolveBorder (s : State) : State :=
  s.withGeom { s.geom with
    minhpass := if s.geom.hStartClamped then 0 else Config.borderLeft
    maxhpass := if s.geom.hresClamped then s.geom.hres else s.geom.hres - Config.borderRight }

/-- `RES.SKIP` (R246): the three tests, in the source's order. -/
def resolveSkip (s : State) : Flow :=
  if s.ctrl.serrate = false ∧ s.geom.hasData = false then .ended (skipFrame .blank s)
  else if s.geom.hres ≤ 0 ∨ s.geom.vres ≤ 0 then .ended (skipFrame .emptyWindow s)
  else if s.geom.origin = 0 then .ended (skipFrame .nullOrigin s)
  else .go s

/-- `G.linecount` (R247). -/
def linecountOf (c : Ctrl) : Int := if c.serrate then 2 * Config.maxW else Config.maxW

/-- `RES.PTR` (R247). -/
def resolvePtr (s : State) : State :=
  s.withGeom { s.geom with
    linecount := linecountOf s.ctrl
    prescalePtr := s.geom.vStart * linecountOf s.ctrl + s.geom.hStart
      + (if s.geom.lowerfield then Config.maxW else 0) }

/-- `RES.FIT` (R248). -/
def resolveFit (s : State) : Flow :=
  if s.ctrl.serrate ∧ 2 * (s.geom.vStart + s.geom.vres) > Config.maxH then
    .ended (raiseFatal .prescaleOverflow (s.geom.vStart + s.geom.vres) s)
  else .go s

/-! ## Meanings -/

/-- RES.SNAP (R230). -/
def execResSnap (s : State) : Out := .next (takeSnapshot s)

/-- RES.EXTENT (R231). -/
def execResExtent (s : State) : Out := .next (resolveExtent s)

/-- RES.CTRL (R232). -/
def execResCtrl (s : State) : Out := .next (resolveCtrl s).state

/-- RES.TV (R233). -/
def execResTv (s : State) : Out := .next (resolveTv s)

/-- RES.HPORCH (R234). -/
def execResHporch (s : State) : Out := .next (resolveHporch s)

/-- RES.HCLAMP0 (R235). -/
def execResHclamp0 (s : State) : Out := .next (resolveHclamp0 s)

/-- RES.FIELD (R236). -/
def execResField (s : State) : Out := .next (resolveField s)

/-- FIELD.INTERLACED (R236 to R240), the variant of RES.FIELD for a valid-interlaced frame. -/
def execFieldInterlaced (s : State) : Out := .next (fieldInterlaced s)

/-- RES.VPORCH (R241). -/
def execResVporch (s : State) : Out := .next (resolveVporch s)

/-- RES.CANVAS (R243). -/
def execResCanvas (s : State) : Out := .next (resolveCanvas s)

/-- RES.VACTIVE (R244). -/
def execResVactive (s : State) : Out := .next (resolveVactive s).state

/-- RES.BORDER (R245). -/
def execResBorder (s : State) : Out := .next (resolveBorder s)

/-- RES.SKIP (R246). -/
def execResSkip (s : State) : Out := .next (resolveSkip s).state

/-- RES.PTR (R247). -/
def execResPtr (s : State) : Out := .next (resolvePtr s)

/-- RES.FIT (R248). -/
def execResFit (s : State) : Out := .next (resolveFit s).state

end Sys2Proof.Machine
end

