-- ==== Sys2Proof/Machine/Composition.lean ====
section
/-! DEFINITION. The update sequence and the composition stage (45_composition.md): UPDATE, MODESW,
COMPOSE.*, WIDESCREEN, SINK, SNAPREQ, SNAPSHOT, BMP, PRESENT, CFGWR. -/

namespace Sys2Proof.Machine

/-! ## The update (R340, R342) -/

/-- The filtered resolver's steps, in the order of 42_resolver.md R250. -/
def filteredResolver : List Instr :=
  [.resSnap, .resExtent, .resCtrl, .resTv, .resHporch, .resHclamp0, .resField, .resVporch,
   .resCanvas, .resVactive, .resBorder, .resSkip, .resPtr, .resFit]

/-- The end of every completed update: sink, snapshot, present, `phase <- Idle` (R340). -/
def composeTail : List SeqOp :=
  [.stage .widescreen, .op .sink, .snapshotIfPending, .op .present, .finish]

/-- The sequence an `UPDATE` starts (R340), by the intent it sampled. The engine control agent has
no step between `DISP.RUN` and `phase <- Compose` until the barrier releases it. -/
def updateSequence (i : Intent) : List SeqOp :=
  if i = .normal then
    filteredResolver.map .op
      ++ [.op .modesw, .phase .render, .stage .pipeline, .phase .compose, .stage .compose]
      ++ composeTail
  else
    [.op .fastGeom, .op .modesw, .phase .render, .op (.dispRun .fast), .phase .compose,
      .op .composeFast] ++ composeTail

/-- What `UPDATE` does at once (R340, R341): the configuration is sampled, the phase becomes
`Resolve` and the sequence is issued. -/
def startUpdate (s : State) : State :=
  issue (updateSequence s.cfg.intent) ((s.withCfgCopy s.cfg).withPhase .resolve)

/-- `MODESW` (R342). -/
def modeSwitch (s : State) : State :=
  if s.cfgCopy.intent = s.lastIntent then s
  else (s.withPrescale []).withLastIntent s.cfgCopy.intent

/-! ## Rectangles (R343 to R347) -/

/-- `TARGET(lines)` (R347), for a divisor that is not 0. -/
def targetHeight (lines : Int) (vSync : Nat) : Int := tdiv (lines * Config.ntscSync) vSync

/-- The rectangle of `COMPOSE.FULL` (R343). -/
def fullRect (g : Geometry) : Desc where
  ptr := 0
  width := Config.maxW
  height := g.vactive
  pitch := Config.maxW
  targetHeight := targetHeight (g.vSync - vOffset g) g.vSync

/-- `COMPOSE.FULL` (R343). -/
def composeFull (s : State) : Out :=
  if s.geom.vactive ≤ 0 then .next (skipFrame .emptyCrop s)
  else if s.geom.vSync = 0 then .fault .zeroDivisor
  else .next (s.withDesc (fullRect s.geom))

/-- `v << s` with `s` the control word's serrate flag (R344). -/
def bothFields (c : Ctrl) (v : Int) : Int := if c.serrate then 2 * v else v

/-- The rectangle of `COMPOSE.CROP` (R344). -/
def cropRect (c : Ctrl) (g : Geometry) : Desc where
  ptr := bothFields c g.vStart * Config.maxW + g.hStart + g.minhpass
  width := g.maxhpass - g.minhpass
  height := bothFields c g.vres
  pitch := Config.maxW
  targetHeight := targetHeight (2 * g.vres) g.vSync

/-- `COMPOSE.CROP` (R344). -/
def composeCrop (s : State) : Out :=
  if s.geom.maxhpass - s.geom.minhpass ≤ 0 then .next (skipFrame .emptyCrop s)
  else if s.geom.vSync = 0 then .fault .zeroDivisor
  else .next (s.withDesc (cropRect s.ctrl s.geom))

/-- The rectangle of `COMPOSE.FAST` (R345). -/
def fastRect (g : Geometry) : Desc where
  ptr := 0
  width := g.hresRaw
  height := g.vresRaw
  pitch := g.hresRaw
  targetHeight := tdiv (g.hresRaw * targetHeight (2 * g.vres) g.vSync) g.hres

/-- `COMPOSE.FAST` (R345). -/
def composeFast (s : State) : Out :=
  if s.geom.vSync = 0 ∨ s.geom.hres = 0 then .fault .zeroDivisor
  else .next (s.withDesc (fastRect s.geom))

/-- `WIDESCREEN(d)` (R346). -/
def widenDesc (d : Desc) : Desc :=
  { d with targetHeight := tdiv (d.targetHeight * Config.wideNum) Config.wideDen }

/-! ## The picture (R348, R349, R354) -/

/-- Is every word the descriptor designates inside the prescale buffer (R348). -/
def Desc.inBuffer (d : Desc) : Bool :=
  decide (0 ≤ d.ptr) && decide (0 ≤ d.pitch) &&
    (decide (d.height ≤ 0) || decide (d.width ≤ 0) ||
      decide (d.ptr + (d.height - 1) * d.pitch + d.width ≤ Config.prescaleWords))

/-- `SRCIMG(d)[row][col]` (R348). -/
def srcPixel (p : Prescale) (d : Desc) (row col : Nat) : Word :=
  prescaleGet p (d.ptr + row * d.pitch + col).toNat

/-- One row of `SRCIMG(d)`. -/
def srcRow (p : Prescale) (d : Desc) (row : Nat) : List Word :=
  (List.range d.width.toNat).map (srcPixel p d row)

/-- `SRCIMG(d)` (R348). -/
def srcImage (p : Prescale) (d : Desc) : List (List Word) :=
  (List.range d.height.toNat).map (srcRow p d)

/-- `ROWMAP(t)` (R349). -/
def rowMap (d : Desc) (t : Nat) : Nat :=
  if d.height = d.targetHeight then t else (t * d.height / d.targetHeight).toNat

/-- `DISPLAY(d)` (R349). -/
def displayImage (p : Prescale) (d : Desc) : List (List Word) :=
  (List.range d.targetHeight.toNat).map fun t => srcRow p d (rowMap d t)

/-- A 2-byte little-endian field (R354). -/
def le16 (v : Nat) : List Byte := [BitVec.ofNat 8 v, BitVec.ofNat 8 (v / 256)]

/-- A 4-byte little-endian field (R354). -/
def le32 (v : Nat) : List Byte := le16 v ++ le16 (v / 65536)

/-- The 54 bytes of the two headers (R354). -/
def bmpHeader (wd ht : Nat) : List Byte :=
  [0x42, 0x4D] ++ le32 (54 + wd * ht * 4) ++ le16 0 ++ le16 0 ++ le32 54
    ++ (le32 40 ++ le32 wd ++ le32 ht ++ le16 1 ++ le16 32 ++ le32 0 ++ le32 (wd * ht * 4)
      ++ le32 0 ++ le32 0 ++ le32 0 ++ le32 0)

/-- `BMP(d)` (R354): the headers, then the rows of `DISPLAY(d)`, bottom row first. -/
def bmpBytes (p : Prescale) (d : Desc) : List Byte :=
  bmpHeader d.width.toNat d.targetHeight.toNat
    ++ (displayImage p d).reverse.flatMap fun row => row.flatMap fun v => le32 v.toNat

/-! ## Meanings -/

/-- UPDATE (R340). -/
def execUpdate (s : State) : Out := hostPort s fun s => .next (startUpdate s)

/-- MODESW (R342). -/
def execModesw (s : State) : Out := .next (modeSwitch s)

/-- COMPOSE.FULL (R343). -/
def execComposeFull (s : State) : Out := composeFull s

/-- COMPOSE.CROP (R344). -/
def execComposeCrop (s : State) : Out := composeCrop s

/-- COMPOSE.FAST (R345). -/
def execComposeFast (s : State) : Out := composeFast s

/-- WIDESCREEN (R346). -/
def execWidescreen (s : State) : Out := .next (s.withDesc (widenDesc s.desc))

/-- SINK (R348). -/
def execSink (s : State) : Out :=
  if s.desc.inBuffer then .next (emit (.sink s.desc (srcImage s.prescale s.desc)) s)
  else .fault .prescaleIndex

/-- PRESENT (R350). -/
def execPresent (s : State) : Out := .next (emit .present s)

/-- SNAPREQ (R352). -/
def execSnapreq (path : List Byte) (s : State) : Out :=
  hostPort s fun s => .next (s.withSnapreq ⟨true, path⟩)

/-- SNAPSHOT (R353): the file, or the warning that the path cannot be opened; the request is
cleared either way. -/
def execSnapshot (s : State) : Out :=
  if s.desc.inBuffer then
    .next ((if Config.fileOpens s.snapreq.path then
        emit (.file s.snapreq.path (bmpBytes s.prescale s.desc)) s
      else warn .snapshotOpen 0 s).withSnapreq { s.snapreq with pending := false })
  else .fault .prescaleIndex

/-- BMP (R354): the byte string stands in the register `bmp` (log 19). -/
def execBmp (s : State) : Out :=
  if s.desc.inBuffer then .next (s.withBmp (bmpBytes s.prescale s.desc))
  else .fault .prescaleIndex

/-- CFGWR (R357). -/
def execCfgwr (arg : BitVec 24) (s : State) : Out :=
  hostPort s fun s => .next (s.withCfg (decodeCfgw (arg.zeroExtend 32)))

end Sys2Proof.Machine
end

