-- ==== Sys2Proof/Machine/Dispatcher.lean ====
section
/-! DEFINITION. The parallel work-dispatch barrier (40_dispatcher.md): DISP.INIT, DISP.RUN,
DISP.WCOUNT, DISP.TEARDOWN, the worker's start and end, the barrier, the failure of a worker, and
RESET (70_reset_and_hazards.md R430). -/

namespace Sys2Proof.Machine

/-! ## The host's operations -/

/-- The worker count `DISP.INIT` resolves (R161). -/
def resolvedWorkers (c : Cfg) : Nat :=
  if c.workersReq = 0 then Config.hwParallelism else c.workersReq.toNat

/-- DISP.INIT (R161). -/
def execDispInit (s : State) : Out :=
  hostPort s fun s =>
    if s.disp.state = .unconstructed then
      .next ((s.withDisp
        { state := .ready
          w := resolvedWorkers s.cfg
          task := none
          wstat := List.replicate (resolvedWorkers s.cfg) .idle
          stopReq := false }).withWorkers (List.replicate (resolvedWorkers s.cfg) .fresh))
    else .refused .dispatcherState

/-- DISP.WCOUNT (R168): the value returned stands in the register `ret` (log 19). -/
def execDispWcount (s : State) : Out :=
  hostPort s fun s =>
    if s.disp.state = .ready ∨ s.disp.state = .running then .next (s.withRet (some s.disp.w))
    else .refused .dispatcherState

/-- DISP.TEARDOWN (R169): signal stop; the join of the workers, by which `Stopping` becomes
`TornDown` (R160), is issued. With a round in flight the stop waits for the barrier (log 21). -/
def execDispTeardown (s : State) : Out :=
  hostPort s fun s =>
    if s.disp.state = .ready then
      .next (issue [.joinWorkers] (s.withDisp { s.disp with state := .stopping }))
    else if s.disp.state = .running then .next (s.withDisp { s.disp with stopReq := true })
    else .refused .dispatcherState

/-- Every worker has exited (R169): `Stopping` becomes `TornDown` (R160); nothing in any other
state. -/
def joinWorkers (s : State) : State :=
  if s.disp.state = .stopping then s.withDisp { s.disp with state := .tornDown } else s

/-! ## The round -/

/-- The caller's side of DISP.RUN on a dispatcher that is `Ready` (R162). -/
def broadcast (t : Task) (s : State) : State :=
  s.withDisp { s.disp with
    task := some t
    wstat := s.disp.wstat.map fun _ => .pending
    state := .running }

/-- DISP.RUN (R162): the caller has no further step until the barrier (R163). -/
def execDispRun (t : Task) (s : State) : Out :=
  match s.disp.state with
  | .ready => .next (broadcast t s)
  | .running => .refused .reentrantRun
  | .unconstructed | .stopping | .tornDown => .next (raiseFatal .illegalState 0 s)

/-- The task of the round, as the operation worker `wid` runs (R162, R164). -/
def taskOp (t : Option Task) (wid : Nat) : List SeqOp :=
  match t with
  | some .filt => [.op (.taskFilt wid)]
  | some .fast => [.op (.taskFast wid)]
  | none => []

/-- Set the status of the worker in turn. -/
def setStat (st : WStat) (s : State) : State :=
  s.withDisp { s.disp with wstat := s.disp.wstat.set s.me st }

/-- The worker in turn starts (R164): `Pending` becomes `Busy` and it is given the task. -/
def startWorker (s : State) (w : Worker) : State :=
  (setStat .busy s).withWorker { w with seq := taskOp s.disp.task s.me }

/-- The worker in turn has run its task to the end (R164): `Busy` becomes `Done`. -/
def endWorker (s : State) : State := setStat .done s

/-- The barrier step (R163): every worker is `Done`; the caller resumes. A teardown that waited for
the round stops the pool now (R160). -/
def joinRound (s : State) : State :=
  let d := { s.disp with
    task := none
    wstat := s.disp.wstat.map fun _ => .idle
    state := if s.disp.stopReq then .stopping else .ready
    stopReq := false }
  if s.disp.stopReq then issue [.joinWorkers] (s.withDisp d) else s.withDisp d

/-- A worker failure (R171), an event of the environment: fatal while the worker is in a round,
and nothing at any other time (log 9). The barrier of that round never fires. -/
def workerFailure (wid : Nat) (s : State) : State :=
  if s.phase ≠ .halted ∧ s.disp.state = .running
      ∧ (s.disp.wstat[wid]? = some .pending ∨ s.disp.wstat[wid]? = some .busy) then
    raiseFatal .workerFailure wid s
  else s

/-! ## Reset -/

/-- RESET (70_reset_and_hazards.md R430): everything the block owns takes its reset value; the
external state, the noise, which is a parameter (10_state.md R52), and the model's input lists stay
as they are (R431, log 18). -/
def execReset (s : State) : Out :=
  .next { State.reset with
    regs := s.regs
    mem := s.mem
    aux := s.aux
    memLimit := s.memLimit
    zbOrigin := s.zbOrigin
    noise := s.noise
    host := s.host
    env := s.env
    tick := s.tick }

end Sys2Proof.Machine
end

