-- ==== Sys2Proof/Machine/Filters.lean ====
section
/-! DEFINITION. Pixel fetch and pixel filters (41_filters.md): the pure functions, and the meanings
of FETCH.16, FETCH.32, FETCH.BLANK, FETCH, AA_FILTER, RESTORE_FILTER, RESTORE.ON, DIVOT, LERP,
GAMMA and the four GAMMA.* rows. As operations of a worker they leave their result in its register
`sample` (a `CCVG`) or `rgb` (an `RGB`), and write nothing else (log 19). -/

namespace Sys2Proof.Machine

/-! ## The anti-aliasing filter (R193 to R195) -/

/-- The largest element, 0 of no elements. -/
def listMax (l : List Nat) : Nat := l.foldr max 0

/-- The smallest element, 255 of no elements. -/
def listMin (l : List Nat) : Nat := l.foldr min 255

/-- The maximum after removing one occurrence of the maximum (R194). -/
def secondLargest (l : List Nat) : Nat := listMax (l.erase (listMax l))

/-- The minimum after removing one occurrence of the minimum (R194). -/
def secondSmallest (l : List Nat) : Nat := listMin (l.erase (listMin l))

/-- `hi` of R194. -/
def aaHigh (c0 : Nat) (l : List Nat) : Nat := if l.any (c0 < ·) then secondLargest l else c0

/-- `lo` of R194. -/
def aaLow (c0 : Nat) (l : List Nat) : Nat := if l.any (· < c0) then secondSmallest l else c0

/-- One channel of the default anti-aliasing filter (R194): the centre's channel, the channel of
each full neighbour in order, and the coverage. -/
def aaChannel (c0 : Byte) (neighbours : List Byte) (cvg : BitVec 3) : Byte :=
  let l := c0.toNat :: neighbours.map (·.toNat)
  let lo : Int := aaLow c0.toNat l
  let hi : Int := aaHigh c0.toNat l
  BitVec.ofInt 8 (c0.toNat + ((lo + hi - 2 * c0.toNat) * (7 - cvg.toNat) + 4) / 8)

/-- The three channels, each by itself. -/
def aaColour (c : RGB) (neighbours : List RGB) (cvg : BitVec 3) : RGB :=
  ⟨aaChannel c.r (neighbours.map (·.r)) cvg, aaChannel c.g (neighbours.map (·.g)) cvg,
   aaChannel c.b (neighbours.map (·.b)) cvg⟩

/-- The six neighbours' offsets, in order (R194). -/
def aaOffsets (w : Int) : List Int := [-w - 1, -w + 1, -2, 2, w - 1, w + 1]

/-- The neighbour at an offset of a 16-bit pixel, if it is full (R194). -/
def aaNeighbour16 (s : State) (num off : Int) : Option RGB :=
  let (p, a) := memReadPair16 s (memIndex (base16 s.geom.origin) (num + off))
  if cvg16 p a = 7#3 then some (rgb16 p) else none

/-- The neighbour at an offset of a 32-bit pixel, if it is full (R195). -/
def aaNeighbour32 (s : State) (num off : Int) : Option RGB :=
  let p := memRead32 s (memIndex (base32 s.geom.origin) (num + off))
  if cvg32 p = 7#3 then some (rgb32 p) else none

/-- `AA_FILTER(fmt, (r, g, b), num, cvg)` (R193), at its default definition (log 14). -/
def aaFilter (s : State) (fmt : Fmt) (c : RGB) (num : Int) (cvg : BitVec 3) : RGB :=
  match fmt with
  | .bits16 => aaColour c ((aaOffsets s.geom.width).filterMap (aaNeighbour16 s num)) cvg
  | .bits32 => aaColour c ((aaOffsets s.geom.width).filterMap (aaNeighbour32 s num)) cvg

/-! ## The restore filter (R196 to R198) -/

/-- One channel of the default restore filter (R197): the centre's channel and the neighbours'
5-bit channels. -/
def restoreChannel (c0 : Byte) (neighbours : List (BitVec 5)) : Byte :=
  let c5 : BitVec 5 := c0.extractLsb' 3 5
  BitVec.ofInt 8 ((c0.toNat : Int) + (neighbours.countP (c5 < ·) : Nat)
    - (neighbours.countP (· < c5) : Nat))

/-- The eight neighbours' offsets (R197). -/
def restoreOffsets (w : Int) : List Int := [-w - 1, -w, -w + 1, w - 1, w, w + 1, -1, 1]

/-- The three channels, each by itself. -/
def restoreColour (c : RGB) (neighbours : List (BitVec 5 × BitVec 5 × BitVec 5)) : RGB :=
  ⟨restoreChannel c.r (neighbours.map (·.1)), restoreChannel c.g (neighbours.map (·.2.1)),
   restoreChannel c.b (neighbours.map (·.2.2))⟩

/-- `RESTORE_FILTER(fmt, (r, g, b), num)` (R196), at its default definition (log 14). -/
def restoreFilter (s : State) (fmt : Fmt) (c : RGB) (num : Int) : RGB :=
  match fmt with
  | .bits16 => restoreColour c ((restoreOffsets s.geom.width).map fun off =>
      chan5Of16 (memRead16 s (memIndex (base16 s.geom.origin) (num + off))))
  | .bits32 => restoreColour c ((restoreOffsets s.geom.width).map fun off =>
      chan5Of32 (memRead32 s (memIndex (base32 s.geom.origin) (num + off))))

/-! ## Fetch (R190 to R192, R199) -/

/-- Do the anti-aliasing modes read coverage from memory (R190): the first two do. -/
def readsCoverage : AaMode → Bool
  | .resampExtraAlways | .resampExtra => true
  | .resampOnly | .replicate => false

/-- The end that R190 and R191 share: a fully covered pixel passes the restore filter when
`ctrl.dither_filter = 1`, a partly covered one the anti-aliasing filter. -/
def filterSample (s : State) (fmt : Fmt) (c : RGB) (num : Int) (cvg : BitVec 3) : CCVG :=
  if cvg = 7#3 then
    withCvg (if s.ctrl.ditherFilter then restoreFilter s fmt c num else c) cvg
  else withCvg (aaFilter s fmt c num cvg) cvg

/-- `FETCH.16(num)` (R190). -/
def fetch16 (s : State) (num : Int) : CCVG :=
  let idx := memIndex (base16 s.geom.origin) num
  if readsCoverage s.ctrl.aaMode then
    let (pix, aux) := memReadPair16 s idx
    filterSample s .bits16 (rgb16 pix) num (cvg16 pix aux)
  else filterSample s .bits16 (rgb16 (memRead16 s idx)) num 7#3

/-- `FETCH.32(num)` (R191). -/
def fetch32 (s : State) (num : Int) : CCVG :=
  let pix := memRead32 s (memIndex (base32 s.geom.origin) num)
  filterSample s .bits32 (rgb32 pix) num (if readsCoverage s.ctrl.aaMode then cvg32 pix else 7#3)

/-- `FETCH.BLANK(num)` (R192): black, fully covered; no memory is read. -/
def fetchBlank : CCVG := ⟨0, 0, 0, 7⟩

/-- `FETCH(num)` (R199): the variant the colour type selects (log 23). -/
def fetch (s : State) (num : Int) : CCVG :=
  match s.ctrl.ctype with
  | .rgba16 => fetch16 s num
  | .rgba32 => fetch32 s num
  | .blank | .reserved => fetchBlank

/-! ## Divot and blend (R200, R201) -/

/-- `DIVOT(left, centre, right)` (R200). -/
def divot (l c r : CCVG) : CCVG :=
  if l.cvg = 7#3 ∧ c.cvg = 7#3 ∧ r.cvg = 7#3 then c
  else ⟨median3 l.r c.r r.r, median3 l.g c.g r.g, median3 l.b c.b r.b, c.cvg⟩

/-- One channel of the linear blend (R201). -/
def lerpChannel (a b : Byte) (w : BitVec 5) : Byte :=
  BitVec.ofInt 8 (a.toNat + (((b.toNat : Int) - a.toNat) * w.toNat + 16) / 32)

/-- `LERP(a, b, w)` (R201). -/
def lerp (a b : CCVG) (w : BitVec 5) : CCVG :=
  ⟨lerpChannel a.r b.r w, lerpChannel a.g b.g w, lerpChannel a.b b.b w, a.cvg⟩

/-! ## Gamma (R205 to R211) -/

/-- One bit of an integer square root: keep the bit if the square does not pass `n`. -/
def isqrtBit (n r b : Nat) : Nat := if (r + b) * (r + b) ≤ n then r + b else r

/-- `isqrt(n) = floor(sqrt(n))` for `n` below 16384 (R206), bit by bit. -/
def isqrt (n : Nat) : Nat := [64, 32, 16, 8, 4, 2, 1].foldl (isqrtBit n) 0

/-- `GAMMA_TABLE[i]` (R206). -/
def gammaTable (i : Byte) : Byte := BitVec.ofNat 8 (2 * isqrt (64 * i.toNat))

/-- `GAMMA_DITHER_TABLE[j]` (R206). -/
def gammaDitherTable (j : BitVec 14) : Byte := BitVec.ofNat 8 (2 * isqrt j.toNat)

/-- `GAMMA.DITHER` on one channel: one noise bit added, saturating (R208). -/
def gammaDitherChannel (c : Byte) (bit : Bool) : Byte :=
  if c = 255#8 then c else c + BitVec.zeroExtend 8 (BitVec.ofBool bit)

/-- `GAMMA.DITHER` (R208). -/
def gammaDitherRgb (c : RGB) (n : BitVec 15) : RGB :=
  ⟨gammaDitherChannel c.r (n.getLsbD 0), gammaDitherChannel c.g (n.getLsbD 1),
   gammaDitherChannel c.b (n.getLsbD 2)⟩

/-- `GAMMA.TABLE` (R209). -/
def gammaTableRgb (c : RGB) : RGB := ⟨gammaTable c.r, gammaTable c.g, gammaTable c.b⟩

/-- `GAMMA.TABLE_DITHER` (R210): the channel and six noise bits index the larger table. -/
def gammaTableDitherRgb (c : RGB) (n : BitVec 15) : RGB :=
  ⟨gammaDitherTable (c.r ++ n.extractLsb' 0 6), gammaDitherTable (c.g ++ n.extractLsb' 6 6),
   gammaDitherTable (c.b ++ (n.extractLsb' 12 3 ++ n.extractLsb' 0 3))⟩

/-- `GAMMA((r, g, b), y, x)` (R211): the variant the two control bits select. -/
def gammaRgb (s : State) (c : RGB) (y x : Nat) : RGB :=
  match s.ctrl.gamma, s.ctrl.gammaDither with
  | false, false => c
  | false, true => gammaDitherRgb c (ditherNoise s y x)
  | true, false => gammaTableRgb c
  | true, true => gammaTableDitherRgb c (ditherNoise s y x)

/-! ## Meanings -/

/-- Leave a `CCVG` in the worker's register `sample`. -/
def setSample (c : CCVG) (s : State) (w : Worker) : State := s.withWorker { w with sample := c }

/-- Leave an `RGB` in the worker's register `rgb`. -/
def setRgb (c : RGB) (s : State) (w : Worker) : State := s.withWorker { w with rgb := c }

/-- FETCH.16 (R190), of the pixel offset in the worker's register `num`. -/
def execFetch16 (s : State) : Out := onWorker s fun w => .next (setSample (fetch16 s w.num) s w)

/-- FETCH.32 (R191), of the pixel offset in the worker's register `num`. -/
def execFetch32 (s : State) : Out := onWorker s fun w => .next (setSample (fetch32 s w.num) s w)

/-- FETCH.BLANK (R192). -/
def execFetchBlank (s : State) : Out := onWorker s fun w => .next (setSample fetchBlank s w)

/-- FETCH (R199): the pixel offset becomes the worker's `num`, the pixel its `sample`. -/
def execFetch (num : Int) (s : State) : Out :=
  onWorker s fun w => .next (setSample (fetch s num) s { w with num := num })

/-- AA_FILTER (R193). -/
def execAaFilter (fmt : Fmt) (rgb : RGB) (num : Int) (cvg : BitVec 3) (s : State) : Out :=
  onWorker s fun w => .next (setRgb (aaFilter s fmt rgb num cvg) s w)

/-- RESTORE_FILTER (R196). -/
def execRestoreFilter (fmt : Fmt) (rgb : RGB) (num : Int) (s : State) : Out :=
  onWorker s fun w => .next (setRgb (restoreFilter s fmt rgb num) s w)

/-- The format of the frame's pixels, for the filters' `fmt`. -/
def frameFmt (c : Ctrl) : Fmt :=
  match c.ctype with
  | .rgba32 => .bits32
  | .blank | .reserved | .rgba16 => .bits16

/-- RESTORE.ON (R196): the restore filter on the colour and the pixel offset in the worker's
registers, in the frame's format. -/
def execRestoreOn (s : State) : Out :=
  onWorker s fun w => .next (setRgb (restoreFilter s (frameFmt s.ctrl) w.rgb w.num) s w)

/-- DIVOT (R200). -/
def execDivot (l c r : CCVG) (s : State) : Out :=
  onWorker s fun w => .next (setSample (divot l c r) s w)

/-- LERP (R201). -/
def execLerp (a b : CCVG) (wt : BitVec 5) (s : State) : Out :=
  onWorker s fun w => .next (setSample (lerp a b wt) s w)

/-- GAMMA (R211). -/
def execGamma (rgb : RGB) (y x : Nat) (s : State) : Out :=
  onWorker s fun w => .next (setRgb (gammaRgb s rgb y x) s w)

/-- GAMMA.OFF (R207), on the colour in the worker's register. -/
def execGammaOff (s : State) : Out := onWorker s fun w => .next (setRgb w.rgb s w)

/-- GAMMA.DITHER (R208), on the colour and the position in the worker's registers. -/
def execGammaDither (s : State) : Out :=
  onWorker s fun w => .next (setRgb (gammaDitherRgb w.rgb (ditherNoise s w.y w.x)) s w)

/-- GAMMA.TABLE (R209), on the colour in the worker's register. -/
def execGammaTable (s : State) : Out := onWorker s fun w => .next (setRgb (gammaTableRgb w.rgb) s w)

/-- GAMMA.TABLE_DITHER (R210), on the colour and the position in the worker's registers. -/
def execGammaTableDither (s : State) : Out :=
  onWorker s fun w => .next (setRgb (gammaTableDitherRgb w.rgb (ditherNoise s w.y w.x)) s w)

end Sys2Proof.Machine
end

