-- ==== Sys2Proof/Machine/Filtered.lean ====
section
/-! DEFINITION. The filtered pixel pipeline (43_pipeline_filtered.md): PIPE.FILT, TASK_FILT,
SCANLINE, COLUMN, CACHE.NEW, RAW.NEED, DIV.NEED, NEEDS, SEL, DIVOT.ON, BLEND, the four AA.* rows,
LERP3 and WRITE, on the caches and locals of the worker in turn. -/

namespace Sys2Proof.Machine

/-! ## The partition (40_dispatcher.md R166) -/

/-- The `while` loop of R280 and R322: the items `y`, `y + W`, `y + 2W`, ... below `n`; `fuel`
bounds the number of rounds. -/
def strideFrom (w n : Nat) : Nat → Nat → List Nat
  | 0, _ => []
  | fuel + 1, y => if y < n then y :: strideFrom w n fuel (y + w) else []

/-- The items worker `wid` of `w` processes out of `n` (R166). -/
def ownedItems (wid w n : Nat) : List Nat := strideFrom w n n wid

/-! ## The caches (R283 to R287) -/

/-- What a cache holds at a column: nothing where the column is not filled. -/
def Cache.get (c : Cache) (k : Int) : Option CCVG :=
  (c.cells.find? fun e => decide (e.1 = k)).map (·.2)

/-- Fill the next column of a cache and move the marker onto it. -/
def Cache.fill (c : Cache) (v : CCVG) : Cache := ⟨(c.mark + 1, v) :: c.cells, c.mark + 1⟩

/-- `n` rounds of the loop of R284: fill from `FETCH(base + k)`. -/
def rawFill (s : State) (base : Int) : Nat → Cache → Cache
  | 0, c => c
  | n + 1, c => rawFill s base n (c.fill (fetch s (base + (c.mark + 1))))

/-- The divot value of one column, if its three raw taps are filled (R286). -/
def divotAt (r : Cache) (k : Int) : Option CCVG :=
  match r.get (k - 1), r.get k, r.get (k + 1) with
  | some l, some c, some n => if k + 1 ≤ r.mark then some (divot l c n) else none
  | _, _, _ => none

/-- `n` rounds of the loop of R286: fill from the raw cache of the same row. -/
def divFill (r : Cache) : Nat → Cache → Option Cache
  | 0, c => some c
  | n + 1, c =>
    match divotAt r (c.mark + 1) with
    | some v => divFill r n (c.fill v)
    | none => none

/-- How many columns a cache lacks up to column `c`. -/
def Cache.lacks (cache : Cache) (c : Int) : Nat := (c - cache.mark).toNat

/-- The raw cache of a row (10_state.md R45). -/
def Worker.raw (w : Worker) : SrcRow → Cache
  | .current => w.rawc
  | .next => w.rawn

/-- The divot cache of a row (10_state.md R45). -/
def Worker.div (w : Worker) : SrcRow → Cache
  | .current => w.divc
  | .next => w.divn

/-- Replace the raw cache of a row. -/
def Worker.setRaw (w : Worker) (row : SrcRow) (c : Cache) : Worker :=
  match row with
  | .current => { w with rawc := c }
  | .next => { w with rawn := c }

/-- Replace the divot cache of a row. -/
def Worker.setDiv (w : Worker) (row : SrcRow) (c : Cache) : Worker :=
  match row with
  | .current => { w with divc := c }
  | .next => { w with divn := c }

/-- `CACHE.NEW` (R283). Without `ctrl.divot` the spec creates no divot caches: here they are empty,
and no step of a frame fills them (log 28). -/
def newCaches (g : Geometry) (w : Worker) : Worker :=
  { w with
    rawc := ⟨[], accInt g.xStart - 2⟩
    rawn := ⟨[], accInt g.xStart - 2⟩
    divc := ⟨[], accInt g.xStart - 1⟩
    divn := ⟨[], accInt g.xStart - 1⟩ }

/-- `RAW.NEED(cache, base, c)` (R284). -/
def rawNeed (row : SrcRow) (base c : Int) (s : State) (w : Worker) : Worker :=
  w.setRaw row (rawFill s base ((w.raw row).lacks c) (w.raw row))

/-- `DIV.NEED(dcache, rcache, c)` (R286). -/
def divNeed (drow rrow : SrcRow) (c : Int) (w : Worker) : Option Worker :=
  (divFill (w.raw rrow) ((w.div drow).lacks c) (w.div drow)).map (w.setDiv drow)

/-- `hi` of R287: `far` with divot, `next` without. -/
def rawTarget (c : Ctrl) (cur : Int) : Int := if c.divot then cur + 2 else cur + 1

/-- `NEEDS(cur)` (R287): level 1 of both rows, then level 2 of both rows. -/
def needs (cur : Int) (s : State) (w : Worker) : Option Worker :=
  let w1 := rawNeed .next w.nextpixels (rawTarget s.ctrl cur) s
    (rawNeed .current w.pixels (rawTarget s.ctrl cur) s w)
  if s.ctrl.divot then
    (divNeed .current .current (cur + 1) w1).bind fun w2 => divNeed .next .next (cur + 1) w2
  else some w1

/-! ## Selection and blend (R288 to R290) -/

/-- `C(k)` and `N(k)` (R288): the divot cache of the row when divot is on, else the raw cache. -/
def selected (divotOn : Bool) (w : Worker) (row : SrcRow) (k : Int) : Option CCVG :=
  if divotOn then (w.div row).get k else (w.raw row).get k

/-- `LERP3(cur, xfrac, yfrac)` (R290): two horizontal blends, then a vertical one. -/
def lerp3 (divotOn : Bool) (w : Worker) (cur : Int) (xfrac yfrac : BitVec 5) : Option CCVG :=
  match selected divotOn w .current cur, selected divotOn w .current (cur + 1),
    selected divotOn w .next cur, selected divotOn w .next (cur + 1) with
  | some c0, some c1, some n0, some n1 =>
    some (lerp (lerp c0 c1 xfrac) (lerp n0 n1 xfrac) yfrac)
  | _, _, _, _ => none

/-- The blend of the three modes that are not `REPLICATE` (R289). -/
def blendResample (divotOn : Bool) (w : Worker) (cur : Int) (xfrac yfrac : BitVec 5) :
    Option CCVG :=
  if xfrac = 0 ∧ yfrac = 0 then selected divotOn w .current cur
  else lerp3 divotOn w cur xfrac yfrac

/-- `BLEND(cur, xfrac, yfrac)` (R289). -/
def blend (c : Ctrl) (w : Worker) (cur : Int) (xfrac yfrac : BitVec 5) : Option CCVG :=
  if c.aaMode = .replicate then selected c.divot w .current cur
  else blendResample c.divot w cur xfrac yfrac

/-! ## The operations on the state -/

/-- Replace the worker in turn, or stop if a cache column was not filled. -/
def withFilled (s : State) (w : Option Worker) : Out :=
  match w with
  | some w => .next (s.withWorker w)
  | none => .fault .cacheUnfilled

/-- Leave the chosen colour in the worker's register `colour`. -/
def setColour (c : Option CCVG) (s : State) (w : Worker) : Out :=
  withFilled s (c.map fun v => { w with colour := v })

/-- Leave the chosen sample in the worker's register `sample`. -/
def setSelected (c : Option CCVG) (s : State) (w : Worker) : Out :=
  withFilled s (c.map fun v => { w with sample := v })

/-- The prescale index of output pixel `(y, x)` in filtered mode (R292). -/
def writeIndex (g : Geometry) (y x : Nat) : Int := g.prescalePtr + g.linecount * y + x

/-- `WRITE(y, x, v)` (R292). -/
def writePixel (y x : Nat) (v : Word) (s : State) : Out :=
  writePrescale (writeIndex s.geom y x) v s

/-- The locals of `COLUMN(y, x)` (R282). From a scanline's end until this rewrites them, `x`, `xacc`,
`xfrac` and `lineX` keep their last values, as dead data: 10_state.md R46 says that none survives a
scanline, and not what the fields hold (DESIGN CHOICE, log 36). -/
def columnLocals (g : Geometry) (y x : Nat) (w : Worker) : Worker :=
  { w with
    y := y
    x := x
    xacc := g.xStart + x * g.xAdd
    lineX := accInt (g.xStart + x * g.xAdd)
    xfrac := wt (g.xStart + x * g.xAdd) }

/-- The locals of `SCANLINE(y)` (R281), none of them computed from a local of the scanline before
(10_state.md R46). From a scanline's end until this rewrites them, `y`, `curry`, `srow`, `yfrac` and
the two row bases keep their last values, as dead data that no step of a frame reads: the spec says
that no worker local survives a scanline, and not what its field holds then (DESIGN CHOICE,
log 36). -/
def scanlineLocals (g : Geometry) (y : Nat) (w : Worker) : Worker :=
  { w with
    y := y
    curry := g.yStart + y * g.yAdd
    srow := accInt (g.yStart + y * g.yAdd)
    yfrac := wt (g.yStart + y * g.yAdd)
    pixels := g.width * accInt (g.yStart + y * g.yAdd)
    nextpixels := g.width * accInt (g.yStart + y * g.yAdd) + g.width }

/-- The visible half of `COLUMN(y, x)` (R282): fill, blend, gamma, write, for a worker whose locals
stand. -/
def columnVisible (y x : Nat) (s : State) (w : Worker) : Out :=
  match needs w.lineX s w with
  | none => .fault .cacheUnfilled
  | some w1 =>
    match blend s.ctrl w1 w1.lineX w1.xfrac w1.yfrac with
    | none => .fault .cacheUnfilled
    | some c =>
      writePixel y x (pack (gammaRgb s c.rgb y x))
        (s.withWorker { w1 with colour := c, rgb := gammaRgb s c.rgb y x })

/-- `COLUMN(y, x)` (R282). -/
def columnPixel (y x : Nat) (s : State) (w : Worker) : Out :=
  if visible s.geom x then columnVisible y x s (columnLocals s.geom y x w)
  else writePixel y x 0 (s.withWorker (columnLocals s.geom y x w))

/-! ## Meanings -/

/-- PIPE.FILT (R280, R340): the filtered pipeline is the frame's: the round with TASK_FILT is
issued. -/
def execPipeFilt (s : State) : Out := .next (issue [.op (.dispRun .filt)] s)

/-- TASK_FILT (R280): the worker issues its own scanlines, in increasing order. -/
def execTaskFilt (wid : Nat) (s : State) : Out :=
  onWorker s fun w => .next (s.withWorker
    (w.issue ((ownedItems wid s.disp.w s.geom.vres.toNat).map fun y => .op (.scanline y))))

/-- SCANLINE (R281): the locals, then CACHE.NEW and every column in order are issued (log 11). The
spec discards the caches at the scanline's end (20_memory.md R99) and does not say what the fields
that held them hold until the next CACHE.NEW: here the last contents stay, as dead data that no step
of a frame reads (DESIGN CHOICE, log 36). -/
def execScanline (y : Nat) (s : State) : Out :=
  onWorker s fun w => .next (s.withWorker ((scanlineLocals s.geom y w).issue
    (.op .cacheNew :: (List.range s.geom.hres.toNat).map fun x => .op (.column y x))))

/-- COLUMN (R282): one output pixel. -/
def execColumn (y x : Nat) (s : State) : Out := onWorker s fun w => columnPixel y x s w

/-- CACHE.NEW (R283). -/
def execCacheNew (s : State) : Out :=
  onWorker s fun w => .next (s.withWorker (newCaches s.geom w))

/-- RAW.NEED (R284). -/
def execRawNeed (cache : SrcRow) (base c : Int) (s : State) : Out :=
  onWorker s fun w => .next (s.withWorker (rawNeed cache base c s w))

/-- DIV.NEED (R286). R286 gives it for `ctrl.divot = 1` only and `NEEDS` issues it only then; by
itself with divot off, which the spec leaves open, it fills the divot cache all the same (DESIGN
CHOICE, log 28). -/
def execDivNeed (dcache rcache : SrcRow) (c : Int) (s : State) : Out :=
  onWorker s fun w => withFilled s (divNeed dcache rcache c w)

/-- NEEDS (R287). -/
def execNeeds (cur : Int) (s : State) : Out :=
  onWorker s fun w => withFilled s (needs cur s w)

/-- SEL (R288): `C(k)` or `N(k)`; the row and the column become the worker's `selRow`, `selCol`. -/
def execSel (row : SrcRow) (k : Int) (s : State) : Out :=
  onWorker s fun w =>
    setSelected (selected s.ctrl.divot w row k) s { w with selRow := row, selCol := k }

/-- DIVOT.ON (R288), the variant of SEL with divot on: the divot cache of the row and at the
column in the worker's registers. -/
def execDivotOn (s : State) : Out :=
  onWorker s fun w => setSelected (selected true w w.selRow w.selCol) s w

/-- BLEND (R289). -/
def execBlend (cur : Int) (xfrac yfrac : BitVec 5) (s : State) : Out :=
  onWorker s fun w => setColour (blend s.ctrl w cur xfrac yfrac) s w

/-- AA.RESAMP_EXTRA_ALWAYS (R289), at the worker's column and weights. -/
def execAaResampExtraAlways (s : State) : Out :=
  onWorker s fun w => setColour (blendResample s.ctrl.divot w w.lineX w.xfrac w.yfrac) s w

/-- AA.RESAMP_EXTRA (R289), at the worker's column and weights. -/
def execAaResampExtra (s : State) : Out :=
  onWorker s fun w => setColour (blendResample s.ctrl.divot w w.lineX w.xfrac w.yfrac) s w

/-- AA.RESAMP_ONLY (R289), at the worker's column and weights. -/
def execAaResampOnly (s : State) : Out :=
  onWorker s fun w => setColour (blendResample s.ctrl.divot w w.lineX w.xfrac w.yfrac) s w

/-- AA.REPLICATE (R289): the nearest single sample at the worker's column. -/
def execAaReplicate (s : State) : Out :=
  onWorker s fun w => setColour (selected s.ctrl.divot w .current w.lineX) s w

/-- LERP3 (R290). -/
def execLerp3 (cur : Int) (xfrac yfrac : BitVec 5) (s : State) : Out :=
  onWorker s fun w => setColour (lerp3 s.ctrl.divot w cur xfrac yfrac) s w

/-- WRITE (R292). -/
def execWrite (y x : Nat) (v : Word) (s : State) : Out := writePixel y x v s

end Sys2Proof.Machine
end

