-- ==== Sys2Proof/Machine/Fast.lean ====
section
/-! DEFINITION. The fast pixel pipeline (44_pipeline_fast.md): FAST.GEOM, FAST.FIT, TASK_FAST and
the four sample functions. -/

namespace Sys2Proof.Machine

/-! ## Geometry (R320, R321) -/

/-- The common prologue of R320: R230, R231, R232, R233, R244, in this order. -/
def fastPrologue (s : State) : Flow :=
  (resolveCtrl (resolveExtent (takeSnapshot s))).bind fun s => resolveVactive (resolveTv s)

/-- The native resolution (R320). -/
def fastExtent (s : State) : State :=
  s.withGeom { s.geom with
    hresRaw := tdiv (s.geom.xAdd * s.geom.hres) 1024
    vresRaw := tdiv (s.geom.yAdd * s.geom.vres) 1024 }

/-- The tests of R320, in the order written; a frame that passes them issues `FAST.FIT`. -/
def fastTests (s : State) : Flow :=
  if s.geom.hresRaw ≤ 0 ∨ s.geom.vresRaw ≤ 0 then .ended (skipFrame .emptyWindow s)
  else if s.ctrl.serrate ∧ s.geom.parity then .ended (skipFrame .oddField s)
  else if s.cfgCopy.intent = .colorFast ∧ s.geom.hasData = false then .ended (skipFrame .blank s)
  else if s.geom.origin = 0 then .ended (skipFrame .nullOrigin s)
  else .go (issue [.op .fastFit] s)

/-- `FAST.GEOM` (R320). -/
def fastGeom (s : State) : Flow := (fastPrologue s).bind fun s => fastTests (fastExtent s)

/-- `FAST.FIT` (R321). -/
def fastFit (s : State) : Flow :=
  if s.geom.hresRaw * s.geom.vresRaw > Config.prescaleWords then
    .ended (raiseFatal .fastOverflow (s.geom.hresRaw * s.geom.vresRaw) s)
  else .go s

/-! ## The sample functions (R323 to R326) -/

/-- `FAST.COLOR16(off)` (R323). -/
def fastColor16 (s : State) (off : Int) : RGB :=
  rgb16 (memRead16 s (memIndex (base16 s.geom.origin) off))

/-- `FAST.COLOR32(off)` (R324). -/
def fastColor32 (s : State) (off : Int) : RGB :=
  rgb32 (memRead32 s (memIndex (base32 s.geom.origin) off))

/-- `FAST.DEPTH(off)` (R325): the high byte of the depth sample in all three channels. -/
def fastDepth (s : State) (off : Int) : RGB :=
  let z := (memRead16 s (memIndex (base16 s.zbOrigin) off)).extractLsb' 8 8
  ⟨z, z, z⟩

/-- `FAST.CVG(off)` (R326): the 3-bit coverage in the top bits of all three channels. -/
def fastCvg (s : State) (off : Int) : RGB :=
  let (pix, aux) := memReadPair16 s (memIndex (base16 s.geom.origin) off)
  let c : Byte := cvg16 pix aux ++ 0#5
  ⟨c, c, c⟩

/-- `FASTPIX(off)` (R322): the sample function the mode word selects for the frame, none where
none matches. -/
def fastSample (s : State) (off : Int) : Option RGB :=
  match decodeMode .pipeline s.mode with
  | .ok .fastColor16 => some (fastColor16 s off)
  | .ok .fastColor32 => some (fastColor32 s off)
  | .ok .fastDepth => some (fastDepth s off)
  | .ok .fastCvg => some (fastCvg s off)
  | _ => none

/-- The prescale index of output pixel `(y, x)` in fast mode (R327). -/
def fastIndex (g : Geometry) (y x : Nat) : Int := y * g.hresRaw + x

/-- The source offset of output pixel `(y, x)` in fast mode (R322). -/
def fastOffset (g : Geometry) (y x : Nat) : Int := y * g.width + x

/-- One pass of the inner loop of `TASK_FAST` (R322): sample, gamma, write. -/
def fastPixel (y x : Nat) (s : State) : Out :=
  onWorker s fun w =>
    match fastSample s (fastOffset s.geom y x) with
    | none => .refused (.noModeRow .pipeline)
    | some c =>
      writePrescale (fastIndex s.geom y x) (pack (gammaRgb s c y x))
        (s.withWorker { w with
          y := y, x := x, num := fastOffset s.geom y x, rgb := gammaRgb s c y x })

/-! ## Meanings -/

/-- FAST.GEOM (R320). -/
def execFastGeom (s : State) : Out := .next (fastGeom s).state

/-- FAST.FIT (R321). -/
def execFastFit (s : State) : Out := .next (fastFit s).state

/-- TASK_FAST (R322): the worker issues every pixel of its own rows, in order. -/
def execTaskFast (wid : Nat) (s : State) : Out :=
  onWorker s fun w => .next (s.withWorker
    (w.issue ((ownedItems wid s.disp.w s.geom.vresRaw.toNat).flatMap fun y =>
      (List.range s.geom.hresRaw.toNat).map fun x => .fastPixel y x)))

/-- FAST.COLOR16 (R323), of the source offset in the worker's register `num`. -/
def execFastColor16 (s : State) : Out :=
  onWorker s fun w => .next (setRgb (fastColor16 s w.num) s w)

/-- FAST.COLOR32 (R324), of the source offset in the worker's register `num`. -/
def execFastColor32 (s : State) : Out :=
  onWorker s fun w => .next (setRgb (fastColor32 s w.num) s w)

/-- FAST.DEPTH (R325), of the source offset in the worker's register `num`. -/
def execFastDepth (s : State) : Out :=
  onWorker s fun w => .next (setRgb (fastDepth s w.num) s w)

/-- FAST.CVG (R326), of the source offset in the worker's register `num`. -/
def execFastCvg (s : State) : Out :=
  onWorker s fun w => .next (setRgb (fastCvg s w.num) s w)

end Sys2Proof.Machine
end

