-- ==== Sys2Proof/Machine/Dispatch.lean ====
section
/-! DEFINITION. `exec`: one arm per operation of the opcode table, each one call of its meaning. -/

namespace Sys2Proof.Machine

def exec (i : Instr) (s : State) : Host.Outcome State Fault Refusal :=
  match i with
  | .dispInit => Sys2Proof.Machine.execDispInit s
  | .dispWcount => Sys2Proof.Machine.execDispWcount s
  | .dispTeardown => Sys2Proof.Machine.execDispTeardown s
  | .cfgwr arg => Sys2Proof.Machine.execCfgwr arg s
  | .update => Sys2Proof.Machine.execUpdate s
  | .snapreq path => Sys2Proof.Machine.execSnapreq path s
  | .pipeFilt => Sys2Proof.Machine.execPipeFilt s
  | .fastColor16 => Sys2Proof.Machine.execFastColor16 s
  | .fastColor32 => Sys2Proof.Machine.execFastColor32 s
  | .fastDepth => Sys2Proof.Machine.execFastDepth s
  | .fastCvg => Sys2Proof.Machine.execFastCvg s
  | .fetch16 => Sys2Proof.Machine.execFetch16 s
  | .fetch32 => Sys2Proof.Machine.execFetch32 s
  | .fetchBlank => Sys2Proof.Machine.execFetchBlank s
  | .aaResampExtraAlways => Sys2Proof.Machine.execAaResampExtraAlways s
  | .aaResampExtra => Sys2Proof.Machine.execAaResampExtra s
  | .aaResampOnly => Sys2Proof.Machine.execAaResampOnly s
  | .aaReplicate => Sys2Proof.Machine.execAaReplicate s
  | .restoreOn => Sys2Proof.Machine.execRestoreOn s
  | .divotOn => Sys2Proof.Machine.execDivotOn s
  | .gammaOff => Sys2Proof.Machine.execGammaOff s
  | .gammaDither => Sys2Proof.Machine.execGammaDither s
  | .gammaTable => Sys2Proof.Machine.execGammaTable s
  | .gammaTableDither => Sys2Proof.Machine.execGammaTableDither s
  | .fieldInterlaced => Sys2Proof.Machine.execFieldInterlaced s
  | .composeFull => Sys2Proof.Machine.execComposeFull s
  | .composeCrop => Sys2Proof.Machine.execComposeCrop s
  | .widescreen => Sys2Proof.Machine.execWidescreen s
  | .reset => Sys2Proof.Machine.execReset s
  | .dispRun task => Sys2Proof.Machine.execDispRun task s
  | .resSnap => Sys2Proof.Machine.execResSnap s
  | .resExtent => Sys2Proof.Machine.execResExtent s
  | .resCtrl => Sys2Proof.Machine.execResCtrl s
  | .resTv => Sys2Proof.Machine.execResTv s
  | .resHporch => Sys2Proof.Machine.execResHporch s
  | .resHclamp0 => Sys2Proof.Machine.execResHclamp0 s
  | .resField => Sys2Proof.Machine.execResField s
  | .resVporch => Sys2Proof.Machine.execResVporch s
  | .resCanvas => Sys2Proof.Machine.execResCanvas s
  | .resVactive => Sys2Proof.Machine.execResVactive s
  | .resBorder => Sys2Proof.Machine.execResBorder s
  | .resSkip => Sys2Proof.Machine.execResSkip s
  | .resPtr => Sys2Proof.Machine.execResPtr s
  | .resFit => Sys2Proof.Machine.execResFit s
  | .taskFilt wid => Sys2Proof.Machine.execTaskFilt wid s
  | .scanline y => Sys2Proof.Machine.execScanline y s
  | .column y x => Sys2Proof.Machine.execColumn y x s
  | .cacheNew => Sys2Proof.Machine.execCacheNew s
  | .rawNeed cache base c => Sys2Proof.Machine.execRawNeed cache base c s
  | .divNeed dcache rcache c => Sys2Proof.Machine.execDivNeed dcache rcache c s
  | .needs cur => Sys2Proof.Machine.execNeeds cur s
  | .sel row k => Sys2Proof.Machine.execSel row k s
  | .blend cur xfrac yfrac => Sys2Proof.Machine.execBlend cur xfrac yfrac s
  | .lerp3 cur xfrac yfrac => Sys2Proof.Machine.execLerp3 cur xfrac yfrac s
  | .write y x v => Sys2Proof.Machine.execWrite y x v s
  | .fetch num => Sys2Proof.Machine.execFetch num s
  | .aaFilter fmt rgb num cvg => Sys2Proof.Machine.execAaFilter fmt rgb num cvg s
  | .restoreFilter fmt rgb num => Sys2Proof.Machine.execRestoreFilter fmt rgb num s
  | .divot left centre right => Sys2Proof.Machine.execDivot left centre right s
  | .lerp a b w => Sys2Proof.Machine.execLerp a b w s
  | .gamma rgb y x => Sys2Proof.Machine.execGamma rgb y x s
  | .fastGeom => Sys2Proof.Machine.execFastGeom s
  | .fastFit => Sys2Proof.Machine.execFastFit s
  | .taskFast wid => Sys2Proof.Machine.execTaskFast wid s
  | .modesw => Sys2Proof.Machine.execModesw s
  | .composeFast => Sys2Proof.Machine.execComposeFast s
  | .sink => Sys2Proof.Machine.execSink s
  | .snapshot => Sys2Proof.Machine.execSnapshot s
  | .bmp => Sys2Proof.Machine.execBmp s
  | .present => Sys2Proof.Machine.execPresent s

end Sys2Proof.Machine
end

