-- ==== Sys2Proof/Machine/Sequencer.lean ====
section
/-! DEFINITION. Who moves next and what it runs (00_scope.md R18): the environment, the workers of a
round and its barrier (40_dispatcher.md R163 to R165), the engine control agent's sequence
(45_composition.md R340), and the host in phase `Idle` (70_reset_and_hazards.md R441). -/

namespace Sys2Proof.Machine

/-! ## One issued operation -/

/-- A stage of the operation map (30_encoding.md R141): the row that matches the mode word; a stage
whose row has no listed complement is a no-op where it does not match. -/
def runStage (st : Stage) (s : State) : Out :=
  match decodeMode st s.mode with
  | .ok i => exec i s
  | .error _ => if st.optional then .next s else .refused (.noModeRow st)

/-- Run one issued operation. -/
def runOp (op : SeqOp) (s : State) : Out :=
  match op with
  | .op i => exec i s
  | .stage st => runStage st s
  | .phase p => .next (s.withPhase p)
  | .fastPixel y x => fastPixel y x s
  | .snapshotIfPending => if s.snapreq.pending then exec .snapshot s else .next s
  | .joinWorkers => .next (joinWorkers s)
  | .finish => .next ((s.withPhase .idle).withOutcome (some .ok))

/-! ## The host -/

/-- `HardwareRegisters[NAME] <- v` (30_encoding.md R144). -/
def Regs.set (r : Regs) (n : RegName) (v : Word) : Regs :=
  match n with
  | .control => { r with control := v }
  | .origin => { r with origin := v }
  | .width => { r with width := v }
  | .intr => { r with intr := v }
  | .vCurrentLine => { r with vCurrentLine := v }
  | .timing => { r with timing := v }
  | .vSync => { r with vSync := v }
  | .hSync => { r with hSync := v }
  | .leap => { r with leap := v }
  | .hStart => { r with hStart := v }
  | .vStart => { r with vStart := v }
  | .vBurst => { r with vBurst := v }
  | .xScale => { r with xScale := v }
  | .yScale => { r with yScale := v }

/-- The word at an index 0..13 of the register file (10_state.md R30), by its name. -/
def Regs.get (r : Regs) (n : RegName) : Word :=
  match n with
  | .control => r.control
  | .origin => r.origin
  | .width => r.width
  | .intr => r.intr
  | .vCurrentLine => r.vCurrentLine
  | .timing => r.timing
  | .vSync => r.vSync
  | .hSync => r.hSync
  | .leap => r.leap
  | .hStart => r.hStart
  | .vStart => r.vStart
  | .vBurst => r.vBurst
  | .xScale => r.xScale
  | .yScale => r.yScale

/-- Write the halfword at index `i`: bytes `2i`, `2i + 1`, big-endian (20_memory.md R81). -/
def writeHalf (m : Memory) (i : Nat) (v : Half) : Memory :=
  sparseSet (sparseSet m (2 * i) (v.extractLsb' 8 8)) (2 * i + 1) (v.extractLsb' 0 8)

/-- Write the word at index `j`: halfwords `2j`, `2j + 1` (20_memory.md R81). -/
def writeWord (m : Memory) (j : Nat) (v : Word) : Memory :=
  writeHalf (writeHalf m (2 * j) (v.extractLsb' 16 16)) (2 * j + 1) (v.extractLsb' 0 16)

/-- A host write of external state passes the host port: it is refused outside phase `Idle`
(60_exceptions.md R390), and while `FAULT.valid = 1` as every host operation is (10_state.md R43,
log 17). -/
def hostWrite (s : State) (s' : State) : Out := hostPort s fun _ => .next s'

/-- One action of the host: a command word decoded and run, or a write. A reserved `op` is refused
always (60_exceptions.md R390), and is named before the fault and the phase are looked at: the spec
gives a refusal no code, so the order is the model's (DESIGN CHOICE, log 22). -/
def hostAction (a : HostAction) (s : State) : Out :=
  match a with
  | .command w path =>
    match decodeCmd w path with
    | .ok i => exec i s
    | .error (.reservedOp op) => .refused (.reservedOp op)
    | .error (.noModeRow st) => .refused (.noModeRow st)
  | .reg n v => hostWrite s (s.withRegs (s.regs.set n v))
  | .mem16 i v => hostWrite s (s.withMem (writeHalf s.mem i.toNat v))
  | .mem32 j v => hostWrite s (s.withMem (writeWord s.mem j.toNat v))
  | .aux i v => hostWrite s (s.withAux (sparseSet s.aux i.toNat v))
  | .zb v => hostWrite s (s.withZbOrigin v)

/-- The host's turn: its oldest pending action; with none pending nothing happens
(70_reset_and_hazards.md R432). -/
def hostStep (s : State) : Out :=
  match s.host with
  | [] => .next s
  | a :: r => hostAction a (s.withHost r)

/-! ## The round -/

/-- The workers of a round that still have a step (40_dispatcher.md R164). -/
def unfinished (wstat : List WStat) : List Nat :=
  (List.range wstat.length).filter fun i =>
    wstat[i]? = some .pending || wstat[i]? = some .busy

/-- One step of worker `i` (40_dispatcher.md R164): it starts, runs the next operation of its task,
or ends. -/
def workerStep (i : Nat) (s : State) : Out :=
  onWorker (s.withMe i) fun w =>
    match s.disp.wstat[i]? with
    | some .pending => .next (startWorker (s.withMe i) w)
    | some .busy =>
      match w.seq with
      | [] => .next (endWorker (s.withMe i))
      | op :: r => runOp op ((s.withMe i).withWorker { w with seq := r })
    | some .idle | some .done | none => .fault .noWorker

/-- One step of a round (40_dispatcher.md R163 to R165): the barrier when every worker is `Done`;
otherwise one of the workers that still have a step, which of several being a free choice (log 8). -/
def roundStep (s : State) : Out :=
  match unfinished s.disp.wstat with
  | [] => if s.disp.wstat.all (· = .done) then .next (joinRound s) else .fault .sequenceEnded
  | [i] => workerStep i s
  | i :: j :: r =>
    let l := i :: j :: r
    workerStep (l.getD (Config.schedule s.tick % l.length) i) (s.withTick (s.tick + 1))

/-! ## The machine -/

/-- The step of the block when the environment does nothing. A round in flight is run first: its
caller has no step (40_dispatcher.md R162). Then the engine's issued operations; then the host, in
phase `Idle`. A halted block gives its turns to the host, which it refuses. -/
def machineStep (s : State) : Out :=
  if s.phase = .halted then hostStep s
  else if s.disp.state = .running then roundStep s
  else
    match s.seq with
    | op :: r => runOp op (s.withSeq r)
    | [] => if s.phase = .idle then hostStep s else .fault .sequenceEnded

/-- The step with the environment's event in front of it (log 10). -/
def envStep (s : State) : Out :=
  match s.env with
  | [] => machineStep s
  | .quiet :: r => machineStep (s.withEnv r)
  | .reset :: r => exec .reset (s.withEnv r)
  | .workerFailure wid :: r => .next (workerFailure wid (s.withEnv r))

end Sys2Proof.Machine
end

