-- ==== Sys2Proof/Machine/Fetch.lean ====
section
/-! DEFINITION. How one word of the opcode table is placed so that the very next step selects and
runs its operation (30_encoding.md R120; log 10): a command word in the host's queue, a mode word as
the update's sampled configuration and snapshot with its stage issued. -/

namespace Sys2Proof.Machine

/-- A command word: the host's next action, in phase `Idle`. -/
def placeCommand (s : State) (w : Nat) : State :=
  ((((s.withHost (.command (BitVec.ofNat 32 w) [] :: s.host)).withEnv []).withSeq []).withPhase
    .idle).withDisp { s.disp with state := if s.disp.state = .running then .ready else s.disp.state }

/-- The mode word `M` (R140): its halves become the snapshot's control word and the update's
configuration. -/
def placeMode (s : State) (w : Nat) : State :=
  ((s.withSnap { s.snap with control := (BitVec.ofNat 64 w).extractLsb' 0 32 }).withCfgCopy
    (decodeCfgw ((BitVec.ofNat 64 w).extractLsb' 32 32))).withEnv []

/-- A stage of the engine control agent: issued, with no round in flight. -/
def placeEngineStage (s : State) (st : Stage) (p : Phase) : State :=
  ((s.withSeq [.stage st]).withPhase p).withDisp
    { s.disp with state := if s.disp.state = .running then .ready else s.disp.state }

/-- A cache that holds black in the columns -1 to 1. -/
def blackCache : Cache := ⟨[(1, blackCcvg), (0, blackCcvg), (-1, blackCcvg)], 1⟩

/-- A worker in mid-column 0, its caches filled, with a stage to run. -/
def placedWorker (st : Stage) : Worker :=
  { Worker.fresh with
    seq := [.stage st]
    rawc := blackCache
    rawn := blackCache
    divc := blackCache
    divn := blackCache }

/-- A stage of a worker: a round of one worker, which is about to run it. -/
def placeWorkerStage (s : State) (st : Stage) : State :=
  ((((s.withSeq []).withPhase .render).withDisp
    { state := .running, w := 1, task := some .filt, wstat := [.busy], stopReq := false }).withWorkers
      [placedWorker st]).withMe 0

/-- Place the stage of a mode row: `PIPE.FILT`, the field and the composition stages belong to the
engine control agent, the others to a worker. -/
def placeStage (s : State) (r : ModeRow) : State :=
  match r.stage with
  | .pipeline => if r.instr = .pipeFilt then placeEngineStage s .pipeline .render
      else placeWorkerStage s .pipeline
  | .fetch => placeWorkerStage s .fetch
  | .blend => placeWorkerStage s .blend
  | .restore => placeWorkerStage s .restore
  | .divot => placeWorkerStage s .divot
  | .gamma => placeWorkerStage s .gamma
  | .field => placeEngineStage s .field .resolve
  | .compose => placeEngineStage s .compose .compose
  | .widescreen => placeEngineStage s .widescreen .compose

/-- The mode row `decodeTableWord` reads from a word that is no command word. -/
def placedRow (nbits w : Nat) : Option ModeRow :=
  if nbits ≤ 32 then
    modeRows.find? fun r => r.stage == .gamma && r.hits (BitVec.ofNat 64 w)
  else tableRow (BitVec.ofNat 64 w)

/-- Is the word a command word of the table: at most 32 bits, its `op` assigned (R136), or no row
of the operation map is there for it. -/
def isCommandWord (nbits w : Nat) : Bool :=
  nbits ≤ 32 && (decodeCmd (BitVec.ofNat 32 w) []).toOption.isSome

/-- The state with one word of the opcode table placed where the next step selects it. -/
def placeTableWord (s : State) (nbits w : Nat) : State :=
  if isCommandWord nbits w then placeCommand s w
  else
    match placedRow nbits w with
    | some r => placeStage (placeMode s w) r
    | none => placeCommand s w

end Sys2Proof.Machine
end

