-- ==== Sys2Proof/Machine/Step.lean ====
section
/-! DEFINITION. One step of the machine, and the placing of one word of the opcode table where the
next step selects it. -/

namespace Sys2Proof.Machine

/-- One step: one move of one agent (00_scope.md R18). -/
def step (s : State) : Host.Outcome State Fault Refusal := envStep s

/-- The state with one word of the opcode table, `nbits` bits long, placed where `step` selects its
next operation (log 10). -/
def State.withFetchWord (s : State) (nbits w : Nat) : State := placeTableWord s nbits w

end Sys2Proof.Machine
end

