-- ==== Sys2Proof/Machine/Script.lean ====
section
/-! DEFINITION. The host script notation (30_encoding.md R144, R145): every line as the host's
actions it stands for, the parameter a script fixes, and the state in which a script is about to run.
The textual syntax is not here: no port of the block reads text (log 31). -/

namespace Sys2Proof.Machine

/-- A line of a script: the lines of R144, then the pseudo-lines of R145. -/
inductive ScriptLine where
  | reg (name : RegName) (v : Word)
  | mem16 (i : Word) (v : Half)
  | mem32 (j : Word) (v : Word)
  | aux (i : Word) (v : Byte)
  | zb (v : BitVec 24)
  /-- `.noise f`: no action, it fixes a parameter. -/
  | noise (f : NoiseFn)
  /-- `cfgwr intent=I, workers=N, wide=B, crop=B`; an omitted field is `none`. -/
  | cfgwr (intent : Option Intent) (workers : Option Byte) (wide crop : Option Bool)
  | init
  | wcount
  | update
  | snapreq (path : List Byte)
  | teardown
  /-- `.ctrl type=T, aa=A, flags` -/
  | ctrl (c : Ctrl)
  | hstart (s e : BitVec 10)
  | vstart (s e : BitVec 10)
  | xscale (off add : BitVec 12)
  | yscale (off add : BitVec 12)
  | pix16 (i : Word) (r5 g5 b5 : BitVec 5) (c : BitVec 3)
  | pix32 (j : Word) (r g b : Byte) (c : BitVec 3)
  | updates (n : Nat)
  deriving DecidableEq, Repr

/-- Two 10-bit fields at bits 25:16 and 9:0 (R128, R129, R145). -/
def packStartEnd (s e : BitVec 10) : Word := (0#6 ++ s) ++ (0#6 ++ e)

/-- Two 12-bit fields at bits 27:16 and 11:0 (R130, R131, R145). -/
def packScale (off add : BitVec 12) : Word := (0#4 ++ off) ++ (0#4 ++ add)

/-- The configuration a `cfgwr` line asks for: an omitted field keeps its value (R144). -/
def cfgOf (c : Cfg) (intent : Option Intent) (workers : Option Byte) (wide crop : Option Bool) :
    Cfg where
  intent := intent.getD c.intent
  widescreen := wide.getD c.widescreen
  hideOverscan := crop.getD c.hideOverscan
  workersReq := workers.getD c.workersReq

/-- The `CFGWR` command of a configuration (R136). -/
def cfgwrCommand (c : Cfg) : HostAction :=
  .command (cmdWord ((encodeCfgw c).extractLsb' 0 24) 0x10) []

/-- The host's actions of one line, under the configuration in force. -/
def ScriptLine.actions (c : Cfg) : ScriptLine → List HostAction
  | .reg n v => [.reg n v]
  | .mem16 i v => [.mem16 i v]
  | .mem32 j v => [.mem32 j v]
  | .aux i v => [.aux i v]
  | .zb v => [.zb v]
  | .noise _ => []
  | .cfgwr i n w k => [cfgwrCommand (cfgOf c i n w k)]
  | .init => [.command (cmdWord 0 0x01) []]
  | .wcount => [.command (cmdWord 0 0x02) []]
  | .update => [.command (cmdWord 0 0x11) []]
  | .snapreq path => [.command (cmdWord 0 0x12) path]
  | .teardown => [.command (cmdWord 0 0x03) []]
  | .ctrl k => [.reg .control (encodeCtrl k)]
  | .hstart s e => [.reg .hStart (packStartEnd s e)]
  | .vstart s e => [.reg .vStart (packStartEnd s e)]
  | .xscale o a => [.reg .xScale (packScale o a)]
  | .yscale o a => [.reg .yScale (packScale o a)]
  | .pix16 i r g b k =>
    [.mem16 i (r ++ g ++ b ++ k.extractLsb' 2 1), .aux i (0#6 ++ k.extractLsb' 0 2)]
  | .pix32 j r g b k => [.mem32 j (r ++ g ++ b ++ (k ++ 0#5))]
  | .updates n => List.replicate n (.command (cmdWord 0 0x11) [])

/-- The configuration in force after a line. -/
def ScriptLine.cfgAfter (c : Cfg) : ScriptLine → Cfg
  | .cfgwr i n w k => cfgOf c i n w k
  | .reg _ _ | .mem16 _ _ | .mem32 _ _ | .aux _ _ | .zb _ | .noise _ | .init | .wcount | .update
  | .snapreq _ | .teardown | .ctrl _ | .hstart _ _ | .vstart _ _ | .xscale _ _ | .yscale _ _
  | .pix16 _ _ _ _ _ | .pix32 _ _ _ _ _ | .updates _ => c

/-- The host's actions of a script, from the configuration in force at its start. An omitted `cfgwr`
field keeps the value of the lines before it or, where none sets it, of the start. The notation has no
line for a RESET, and the spec does not say what the field keeps where that event falls between two
lines: here still that value, not the one RESET gives `CFG` (DESIGN CHOICE, log 37). -/
def scriptActions (c : Cfg) : List ScriptLine → List HostAction
  | [] => []
  | l :: r => l.actions c ++ scriptActions (l.cfgAfter c) r

/-! ## A script about to run -/

/-- The function a line fixes `DITHER_NOISE` to. -/
def ScriptLine.noise? : ScriptLine → Option NoiseFn
  | .noise f => some f
  | .reg _ _ | .mem16 _ _ | .mem32 _ _ | .aux _ _ | .zb _ | .cfgwr _ _ _ _ | .init | .wcount
  | .update | .snapreq _ | .teardown | .ctrl _ | .hstart _ _ | .vstart _ _ | .xscale _ _
  | .yscale _ _ | .pix16 _ _ _ _ _ | .pix32 _ _ _ _ _ | .updates _ => none

/-- The function a script fixes the parameter `DITHER_NOISE` to, for the whole script (R144), if it
does. Of several `.noise` lines, which the spec says nothing of, the first (DESIGN CHOICE, log 31). -/
def scriptNoise (l : List ScriptLine) : Option NoiseFn := l.findSome? ScriptLine.noise?

/-- The state in which a script is about to run: the parameter it fixes is fixed from the start, as
41_filters.md R205 has it for the life of the model, and its actions are the host's pending ones. -/
def State.withScript (s : State) (l : List ScriptLine) : State :=
  (s.withNoise ((scriptNoise l).or s.noise)).withHost (scriptActions s.cfg l)

end Sys2Proof.Machine
end

