-- ==== Sys2Proof/Machine/ClosedForm.lean ====
section
/-! DEFINITION. The pipelines' closed forms, without caches, markers or workers: the pixel function
of 43_pipeline_filtered.md R293 and the fast pixel of 44_pipeline_fast.md R328. The machine does not
call them: they say what it has to write. -/

namespace Sys2Proof.Machine

/-- `SRC(r, c)` (R293). -/
def srcAt (s : State) (r c : Int) : CCVG := fetch s (s.geom.width * r + c)

/-- `SEL(r, c)` (R293). -/
def selAt (s : State) (r c : Int) : CCVG :=
  if s.ctrl.divot then divot (srcAt s r (c - 1)) (srcAt s r c) (srcAt s r (c + 1))
  else srcAt s r c

/-- The vertical accumulator of scanline `y` (R293). -/
def curryOf (g : Geometry) (y : Nat) : Int := g.yStart + y * g.yAdd

/-- The horizontal accumulator of column `x` (R293). -/
def xaccOf (g : Geometry) (x : Nat) : Int := g.xStart + x * g.xAdd

/-- `col` of R293, for the source row, the source column and the two weights. -/
def colourAt (s : State) (srow lx : Int) (xfrac yfrac : BitVec 5) : CCVG :=
  if s.ctrl.aaMode = .replicate ∨ (xfrac = 0 ∧ yfrac = 0) then selAt s srow lx
  else lerp (lerp (selAt s srow lx) (selAt s srow (lx + 1)) xfrac)
    (lerp (selAt s (srow + 1) lx) (selAt s (srow + 1) (lx + 1)) xfrac) yfrac

/-- `col` of R293, for an output pixel. -/
def pixColour (s : State) (y x : Nat) : CCVG :=
  colourAt s (accInt (curryOf s.geom y)) (accInt (xaccOf s.geom x)) (wt (xaccOf s.geom x))
    (wt (curryOf s.geom y))

/-- `PIX(y, x)` (R293). -/
def pix (s : State) (y x : Nat) : Word :=
  if visible s.geom x then pack (gammaRgb s (pixColour s y x).rgb y x) else 0

/-- The word of a fast pixel (R328): the sample function the intent and the colour type select. -/
def fastPix (s : State) (y x : Nat) : Word :=
  let off : Int := y * s.geom.width + x
  let c : RGB := match s.cfgCopy.intent with
    | .depthFast => fastDepth s off
    | .coverageFast => fastCvg s off
    | .normal | .colorFast =>
      match s.ctrl.ctype with
      | .rgba32 => fastColor32 s off
      | .blank | .reserved | .rgba16 => fastColor16 s off
  pack (gammaRgb s c y x)

end Sys2Proof.Machine
end

