-- ==== Sys2Proof/Safety.lean ====
section
/-! DEFINITION. What claims about the machine are stated in: when the host may act, the worker in
turn, the invariants of the caches (43_pipeline_filtered.md R285) and of the machine, the accepted
frame (42_resolver.md R250), and the edges of the dispatcher (40_dispatcher.md R160). -/

namespace Sys2Proof.Machine

/-! ## Who may act -/

/-- The host port is open (60_exceptions.md R390). -/
def HostMay (s : State) : Prop := s.fault.valid = false ∧ s.phase = .idle

/-- `w` is the worker in turn. -/
def WorkerIs (s : State) (w : Worker) : Prop := s.workers[s.me]? = some w

/-- Nothing stands before the engine control agent's or the host's next move: no event of the
environment, no fault, no round in flight. -/
def EngineTurn (s : State) : Prop := s.env = [] ∧ s.phase ≠ .halted ∧ s.disp.state ≠ .running

/-- It is worker `i`'s step: no event of the environment, a round in flight, and `i` the one that
the free choice (40_dispatcher.md R165, log 8) falls on among the workers that still have a step. -/
def WorkerTurn (s : State) (i : Nat) (w : Worker) : Prop :=
  s.env = [] ∧ s.phase ≠ .halted ∧ s.disp.state = .running ∧
    (unfinished s.disp.wstat)[Config.schedule s.tick % (unfinished s.disp.wstat).length]? = some i ∧
    s.workers[i]? = some w

/-- The state after the free choice of the next worker: where there was one to make, the counter it
is applied to has advanced (log 8). -/
def afterChoice (s : State) : State :=
  if 1 < (unfinished s.disp.wstat).length then s.withTick (s.tick + 1) else s

/-! ## The machine's steps -/

/-- `n` steps that all answer a next state. -/
def stepMany : Nat → State → Option State
  | 0, s => some s
  | n + 1, s =>
    match step s with
    | .next t => stepMany n t
    | .fault _ => none
    | .refused _ => none

/-! ## The accepted frame -/

/-- The filtered resolver's steps in the order of R250, each on the state the one before left, up
to the first skip or fatal error. -/
def resolveFrame (s : State) : Flow :=
  (resolveCtrl (resolveExtent (takeSnapshot s))).bind fun s =>
  (resolveVactive (resolveCanvas (resolveVporch (resolveField (resolveHclamp0 (resolveHporch
    (resolveTv s))))))).bind fun s =>
  (resolveSkip (resolveBorder s)).bind fun s => resolveFit (resolvePtr s)

/-- `t` is the state in which the resolver has accepted a frame. -/
def Accepted (t : State) : Prop := ∃ s, resolveFrame s = .go t

/-- `t` is a state in which `FAST.GEOM` and, as the next step of its sequence (log 11), `FAST.FIT`
have accepted a fast frame (44_pipeline_fast.md R320, R321). -/
def AcceptedFast (t : State) : Prop :=
  ∃ s u rest, fastGeom s = .go u ∧ fastFit (u.withSeq rest) = .go t

/-! ## The anti-aliasing filter (41_filters.md R194) -/

/-- `v` is the maximum after one occurrence of the maximum is removed (R194). -/
def SecondLargest (l : List Nat) (v : Nat) : Prop :=
  ∃ m ∈ l, (∀ u ∈ l, u ≤ m) ∧ v ∈ l.erase m ∧ ∀ u ∈ l.erase m, u ≤ v

/-- `v` is the minimum after one occurrence of the minimum is removed (R194). -/
def SecondSmallest (l : List Nat) (v : Nat) : Prop :=
  ∃ m ∈ l, (∀ u ∈ l, m ≤ u) ∧ v ∈ l.erase m ∧ ∀ u ∈ l.erase m, v ≤ u

/-- What R194 makes of one channel, in integers: the centre's channel, the channels of the full
neighbours and the coverage. -/
def AaMakes (c0 : Byte) (neighbours : List Byte) (cvg : BitVec 3) (out : Byte) : Prop :=
  let l := c0.toNat :: neighbours.map (·.toNat)
  ∃ lo hi : Nat,
    ((∃ v ∈ l, c0.toNat < v) → SecondLargest l hi) ∧ ((∀ v ∈ l, v ≤ c0.toNat) → hi = c0.toNat) ∧
    ((∃ v ∈ l, v < c0.toNat) → SecondSmallest l lo) ∧ ((∀ v ∈ l, c0.toNat ≤ v) → lo = c0.toNat) ∧
    (out.toNat : Int)
      = c0.toNat + (((lo : Int) + hi - 2 * c0.toNat) * (7 - cvg.toNat) + 4) / 8

/-! ## The caches (R285) -/

/-- What R285 (a), (b) and (d) say of one cache: it holds exactly the columns from `first` to its
marker, each with the value its column has. -/
structure CacheHolds (first : Int) (value : Int → CCVG) (c : Cache) : Prop where
  started : first ≤ c.mark + 1
  filled : ∀ k, first ≤ k → k ≤ c.mark → c.get k = some (value k)
  nothingElse : ∀ k, k < first ∨ c.mark < k → c.get k = none

/-- The source column of output column 0 (R283). -/
def firstColumn (s : State) : Int := accInt s.geom.xStart

/-- The raw value of a column of a row with base offset `base` (R285 (d)). -/
def rawValue (s : State) (base : Int) (k : Int) : CCVG := fetch s (base + k)

/-- The divot value of a column of a row with base offset `base` (R285 (d)). -/
def divValue (s : State) (base : Int) (k : Int) : CCVG :=
  divot (rawValue s base (k - 1)) (rawValue s base k) (rawValue s base (k + 1))

/-- The cache invariants of a worker in a scanline (R285). -/
structure ScanlineCaches (s : State) (w : Worker) : Prop where
  rawc : CacheHolds (firstColumn s - 1) (rawValue s w.pixels) w.rawc
  rawn : CacheHolds (firstColumn s - 1) (rawValue s w.nextpixels) w.rawn
  divc : s.ctrl.divot = true → CacheHolds (firstColumn s) (divValue s w.pixels) w.divc
  divn : s.ctrl.divot = true → CacheHolds (firstColumn s) (divValue s w.nextpixels) w.divn

/-- The worker has the locals of scanline `y` (R281). -/
structure InScanline (s : State) (y : Nat) (w : Worker) : Prop where
  pixels : w.pixels = s.geom.width * accInt (curryOf s.geom y)
  nextpixels : w.nextpixels = w.pixels + s.geom.width
  yfrac : w.yfrac = wt (curryOf s.geom y)

/-! ## The gamma stage (R207 to R210) -/

/-- What the gamma stage makes of `c` by the two control bits, with the noise word `n`: the four
rules R207 to R210 in integers. -/
def GammaMakes (gamma dither : Bool) (n : BitVec 15) (c g : RGB) : Prop :=
  match gamma, dither with
  | false, false => g = c
  | false, true =>
    g.r.toNat = (if c.r.toNat < 255 then c.r.toNat + n.toNat % 2 else c.r.toNat) ∧
    g.g.toNat = (if c.g.toNat < 255 then c.g.toNat + n.toNat / 2 % 2 else c.g.toNat) ∧
    g.b.toNat = (if c.b.toNat < 255 then c.b.toNat + n.toNat / 4 % 2 else c.b.toNat)
  | true, false =>
    g.r.toNat = 2 * Nat.sqrt (64 * c.r.toNat) ∧ g.g.toNat = 2 * Nat.sqrt (64 * c.g.toNat) ∧
    g.b.toNat = 2 * Nat.sqrt (64 * c.b.toNat)
  | true, true =>
    g.r.toNat = 2 * Nat.sqrt (64 * c.r.toNat + n.toNat % 64) ∧
    g.g.toNat = 2 * Nat.sqrt (64 * c.g.toNat + n.toNat / 64 % 64) ∧
    g.b.toNat = 2 * Nat.sqrt (64 * c.b.toNat + 8 * (n.toNat / 4096 % 8) + n.toNat % 8)

/-! ## The dispatcher's edges (R160) -/

/-- The edges of R160, the last of them for a teardown that waited for the barrier. -/
def dispEdges : List (DispState × DispState) :=
  [(.unconstructed, .ready), (.ready, .running), (.running, .ready), (.ready, .stopping),
   (.stopping, .tornDown), (.running, .stopping)]

/-- `DISP.state` stays or moves along an edge. -/
def dispEdge (a b : DispState) : Bool := a == b || dispEdges.contains (a, b)

/-! ## The data invariant -/

/-- The high byte of every prescale word is 0 (10_state.md R42). -/
def prescaleBlackTop (p : Prescale) : Bool := p.all fun e => e.2.extractLsb' 24 8 == 0#8

/-- An issued operation is well formed. -/
def SeqOp.wf : SeqOp → Bool
  | .op i => i.wf
  | .stage _ | .phase _ | .fastPixel _ _ | .snapshotIfPending | .joinWorkers | .finish => true

/-- The memories and the prescale buffer are canonical, every prescale word lies inside the buffer
and has a high byte of 0, and every operation issued and not yet run is well formed. -/
def DataInv (s : State) : Bool :=
  Memory.wf s.mem && Memory.wf s.aux && Prescale.wf s.prescale && prescaleBlackTop s.prescale
    && s.seq.all SeqOp.wf && s.workers.all fun w => w.seq.all SeqOp.wf

/-! ## The control invariant -/

/-- The operation does not itself name `Halted` as a phase: only a fatal error leads there. -/
def SeqOp.noHalt : SeqOp → Bool
  | .phase p => p != .halted
  | .op _ | .stage _ | .fastPixel _ _ | .snapshotIfPending | .joinWorkers | .finish => true

/-- The operations a worker is given or issues (43_pipeline_filtered.md R280 to R283,
44_pipeline_fast.md R322). -/
def SeqOp.isWorkers : SeqOp → Bool
  | .op (.taskFilt _) | .op (.taskFast _) | .op (.scanline _) | .op (.column _ _)
  | .op .cacheNew | .fastPixel _ _ => true
  | _ => false

/-- `Halted` means `FAULT.valid = 1` (10_state.md R50); the dispatcher has one status and one
worker for each of its `W` ids, at least one once constructed, none before; a task exactly while a
round runs (10_state.md R44); a worker has only operations of its task to run; the fields of the
geometry lie in the ranges of 10_state.md R40. -/
structure ControlInv (s : State) : Prop where
  halted : s.phase = .halted ↔ s.fault.valid = true
  statuses : s.disp.wstat.length = s.disp.w
  pool : s.workers.length = s.disp.w
  constructed : s.disp.state ≠ .unconstructed → 1 ≤ s.disp.w
  unconstructed : s.disp.state = .unconstructed → s.disp.w = 0
  task : s.disp.task.isSome ↔ s.disp.state = .running
  issued : s.seq.all SeqOp.noHalt
  workersIssued : ∀ w ∈ s.workers, w.seq.all SeqOp.isWorkers
  xAdd : 0 ≤ s.geom.xAdd ∧ s.geom.xAdd ≤ 4095
  yAdd : 0 ≤ s.geom.yAdd ∧ s.geom.yAdd ≤ 4095
  vSync : s.geom.vSync ≤ 1023
  width : s.geom.width ≤ 4095

end Sys2Proof.Machine
end

