-- ==== Sys2Proof/Certificates/Slice0/Obligations.lean ====
section
/-! DEFINITION. The statements for the provers, from the numbered rules of spec/. -/

open Sys2Proof Sys2Proof.Machine

/-! ## Encoding (30_encoding.md) -/

/-- A few words written out from R136 and R141 (the words of V2.3 and V2.4) decode to the operations
they stand for. -/
def Obligations.TableWordsDecode : Prop :=
  decodeCmd 0x00000001#32 [] = .ok .dispInit ∧ decodeCmd 0x00000002#32 [] = .ok .dispWcount ∧
  decodeCmd 0x00000003#32 [] = .ok .dispTeardown ∧ decodeCmd 0x00000011#32 [] = .ok .update ∧
  decodeCmd 0x00000012#32 [0x61#8] = .ok (.snapreq [0x61#8]) ∧
  decodeCmd 0x00040210#32 [] = .ok (.cfgwr 0x000402#24) ∧
  decodeCfgw 0x00000402#32 = ⟨.depthFast, false, false, 4#8⟩ ∧
  decodeMode .pipeline 0x000002080000324E#64 = .ok .pipeFilt ∧
  decodeMode .fetch 0x000002080000324E#64 = .ok .fetch16 ∧
  decodeMode .blend 0x000002080000324E#64 = .ok .aaResampOnly ∧
  decodeMode .gamma 0x000002080000324E#64 = .ok .gammaTableDither ∧
  decodeMode .field 0x000002080000324E#64 = .ok .fieldInterlaced ∧
  decodeMode .compose 0x000002080000324E#64 = .ok .composeCrop ∧
  decodeMode .restore 0x000002080000324E#64 = .error (.noModeRow .restore) ∧
  decodeMode .pipeline 0x000001020000020A#64 = .ok .fastDepth ∧
  decodeMode .pipeline 0x0000010500000003#64 = .ok .fastColor32 ∧
  decodeMode .widescreen 0x0000010500000003#64 = .ok .widescreen

/-- R136, R141: the encoding of every operation that has one decodes to that operation, with every
operand; a mode row's operation is decoded from every mode word that agrees with its match on its
mask. -/
def Obligations.EncodeDecodeRoundTrip : Prop :=
  (∀ i : Instr, encode i ≠ .seq → decodeEncoding (encode i) = some i) ∧
  (∀ (i : Instr) (st : Stage) (v : ModeWord), encode i = .mode st v →
    ∃ mask : ModeWord, (⟨st, mask, v, i⟩ : ModeRow) ∈ modeRows ∧
      ∀ m : ModeWord, m &&& mask = v → decodeMode st m = .ok i)

/-- R140, R141: which row each stage selects, said by the fields of the control word and of the
configuration ("condition in words"), for every mode word an update can have; a stage of which no
row matches selects none, by the name that is the model's (log 24). R141: within a stage no two rows
match one mode word. -/
def Obligations.ModeRowsSelectByFields : Prop :=
  (∀ (cfg : Cfg) (control : Word),
    let m := makeModeWord cfg control
    let c := decodeCtrl control
    (decodeMode .gamma m = .ok (match c.gamma, c.gammaDither with
      | false, false => .gammaOff | false, true => .gammaDither
      | true, false => .gammaTable | true, true => .gammaTableDither)) ∧
    (cfg.intent = .normal →
      decodeMode .pipeline m = .ok .pipeFilt ∧
      decodeMode .fetch m = .ok (match c.ctype with
        | .rgba16 => .fetch16 | .rgba32 => .fetch32 | .blank => .fetchBlank
        | .reserved => .fetchBlank) ∧
      decodeMode .blend m = .ok (match c.aaMode with
        | .resampExtraAlways => .aaResampExtraAlways | .resampExtra => .aaResampExtra
        | .resampOnly => .aaResampOnly | .replicate => .aaReplicate) ∧
      decodeMode .compose m = .ok (if cfg.hideOverscan then .composeCrop else .composeFull) ∧
      decodeMode .restore m = (if c.ditherFilter then .ok .restoreOn
        else .error (.noModeRow .restore)) ∧
      decodeMode .divot m = (if c.divot then .ok .divotOn else .error (.noModeRow .divot)) ∧
      decodeMode .field m = (if hasData c.ctype && c.serrate then .ok .fieldInterlaced
        else .error (.noModeRow .field))) ∧
    (cfg.intent ≠ .normal →
      decodeMode .fetch m = .error (.noModeRow .fetch) ∧
      decodeMode .blend m = .error (.noModeRow .blend) ∧
      decodeMode .restore m = .error (.noModeRow .restore) ∧
      decodeMode .divot m = .error (.noModeRow .divot) ∧
      decodeMode .field m = .error (.noModeRow .field) ∧
      decodeMode .compose m = .error (.noModeRow .compose)) ∧
    (cfg.intent = .colorFast → decodeMode .pipeline m = (match c.ctype with
      | .rgba16 => .ok .fastColor16 | .rgba32 => .ok .fastColor32
      | .blank => .error (.noModeRow .pipeline)
      | .reserved => .error (.noModeRow .pipeline))) ∧
    (cfg.intent = .depthFast → decodeMode .pipeline m = .ok .fastDepth) ∧
    (cfg.intent = .coverageFast → decodeMode .pipeline m = .ok .fastCvg) ∧
    (decodeMode .widescreen m = (if cfg.widescreen then .ok .widescreen
      else .error (.noModeRow .widescreen)))) ∧
  (∀ (m : ModeWord) (r q : ModeRow), r ∈ modeRows → q ∈ modeRows → r.stage = q.stage →
    r.hits m = true → q.hits m = true → r = q)

/-- R136, R142 (d): a command word selects by its low byte alone, and every other low byte is
reserved; the host's reserved command is refused by name. That the argument of a command that has none
is ignored is the model's reading (log 13), and that a reserved `op` is named before the fault and the
phase are looked at its choice (log 22). -/
def Obligations.CommandWordsDecode : Prop :=
  ∀ (w : Word) (path : List Byte),
    (w.toNat % 256 = 0x01 → decodeCmd w path = .ok .dispInit) ∧
    (w.toNat % 256 = 0x02 → decodeCmd w path = .ok .dispWcount) ∧
    (w.toNat % 256 = 0x03 → decodeCmd w path = .ok .dispTeardown) ∧
    (w.toNat % 256 = 0x10 → decodeCmd w path = .ok (.cfgwr (BitVec.ofNat 24 (w.toNat / 256)))) ∧
    (w.toNat % 256 = 0x11 → decodeCmd w path = .ok .update) ∧
    (w.toNat % 256 = 0x12 → decodeCmd w path = .ok (.snapreq path)) ∧
    (w.toNat % 256 ∉ [0x01, 0x02, 0x03, 0x10, 0x11, 0x12] →
      ∀ s : State, hostAction (.command w path) s
        = .refused (.reservedOp (BitVec.ofNat 8 w.toNat)))

/-- R121, R122, R135: the configuration word and the control word lose no field, and the bits
outside their fields have no effect. -/
def Obligations.FieldWordsRoundTrip : Prop :=
  (∀ c : Cfg, decodeCfgw (encodeCfgw c) = c) ∧
  (∀ c : Ctrl, decodeCtrl (encodeCtrl c) = c) ∧
  (∀ w v : Word, w &&& 0x0000FF0F#32 = v &&& 0x0000FF0F#32 → decodeCfgw w = decodeCfgw v) ∧
  (∀ w v : Word, w &&& 0x00010BFF#32 = v &&& 0x00010BFF#32 → decodeCtrl w = decodeCtrl v)

/-! ## Memory (20_memory.md) -/

/-- R81, R82, R83: the word view of memory is the two halfwords of the same index, the even one in
the high half. R81, R144: a host's write of memory is read back at its index, and every other index
reads as before; for word indices of 2^31 and above, where R81's bytes and its equation with the
halfwords disagree, this is the model's choice of the bytes (log 35). R30, R34, R144: a host's write
of a register or of `ZB_ORIGIN` takes effect on it and on nothing else. R144, R205: a script's
`.noise f` fixes the noise word of every position for the whole script, the forms of `f` and the
first of several lines being the model's (log 31), and places no action; a script without one leaves
the noise as it is. -/
def Obligations.HostWritesReadBack : Prop :=
  (∀ (s : State) (j i0 i1 : Word), i0.toNat = 2 * j.toNat → i1.toNat = 2 * j.toNat + 1 →
    4 * j.toNat + 3 < s.memLimit → memRead32 s j = memRead16 s i0 ++ memRead16 s i1) ∧
  (∀ (s : State) (i : Word), HostMay s → Memory.wf s.mem = true → Memory.wf s.aux = true →
    2 * i.toNat + 1 < s.memLimit →
    (∀ v : Half, ∃ t, hostAction (.mem16 i v) s = .next t ∧ t = s.withMem t.mem ∧
      memRead16 t i = v ∧ ∀ k, k ≠ i → memRead16 t k = memRead16 s k) ∧
    (∀ v : Byte, ∃ t, hostAction (.aux i v) s = .next t ∧ t = s.withAux t.aux ∧
      memReadPair16 t i = (memRead16 s i, v) ∧
      ∀ k, k ≠ i → memReadPair16 t k = memReadPair16 s k) ∧
    (4 * i.toNat + 3 < s.memLimit → ∀ v : Word, ∃ t, hostAction (.mem32 i v) s = .next t ∧
      t = s.withMem t.mem ∧ memRead32 t i = v ∧
      ∀ k, k ≠ i → memRead32 t k = memRead32 s k)) ∧
  (∀ s : State, HostMay s →
    (∀ (n : RegName) (v : Word), ∃ t, hostAction (.reg n v) s = .next t ∧ t = s.withRegs t.regs ∧
      t.regs.get n = v ∧ ∀ k, k ≠ n → t.regs.get k = s.regs.get k) ∧
    (∀ v : BitVec 24, hostAction (.zb v) s = .next (s.withZbOrigin v))) ∧
  (∀ (s : State) (l : List ScriptLine), (∀ g, .noise g ∉ l) →
    s.withScript l = s.withHost (scriptActions s.cfg l) ∧
    ∀ (f : NoiseFn) (rest : List ScriptLine),
      let t := s.withScript (l ++ .noise f :: rest)
      t = (s.withNoise t.noise).withHost (scriptActions s.cfg (l ++ rest)) ∧
      (∀ a b c y x : Nat, f = .affine a b c →
        (ditherNoise t y x).toNat = (a * y + b * x + c) % 32768) ∧
      (∀ y0 x0 v r, f = .point y0 x0 v r → ditherNoise t y0 x0 = v ∧
        ∀ y x, (y, x) ≠ (y0, x0) → ditherNoise t y x = ditherNoise (s.withNoise (some r)) y x))

/-! ## Filters (41_filters.md) -/

/-- R201: the blend of two colours, exactly, its coverage, and that every channel lies between the
two it blends. -/
def Obligations.BlendResultIsExact : Prop :=
  ∀ (s : State) (w : Worker) (a b : CCVG) (f : BitVec 5), WorkerIs s w →
    ∃ c : CCVG, exec (.lerp a b f) s = .next (s.withWorker { w with sample := c }) ∧
      c.cvg = a.cvg ∧
      (c.r.toNat : Int) = a.r.toNat + (((b.r.toNat : Int) - a.r.toNat) * f.toNat + 16) / 32 ∧
      (c.g.toNat : Int) = a.g.toNat + (((b.g.toNat : Int) - a.g.toNat) * f.toNat + 16) / 32 ∧
      (c.b.toNat : Int) = a.b.toNat + (((b.b.toNat : Int) - a.b.toNat) * f.toNat + 16) / 32 ∧
      min a.r.toNat b.r.toNat ≤ c.r.toNat ∧ c.r.toNat ≤ max a.r.toNat b.r.toNat ∧
      min a.g.toNat b.g.toNat ≤ c.g.toNat ∧ c.g.toNat ≤ max a.g.toNat b.g.toNat ∧
      min a.b.toNat b.b.toNat ≤ c.b.toNat ∧ c.b.toNat ≤ max a.b.toNat b.b.toNat

/-- R193, R194, R195, at the spec's default definition of the filter (log 14): which neighbours are
read and which of them are full, in both formats, and what each channel becomes of the centre's and
the full neighbours'. So a channel lies between the smallest and the largest value it read, and is
the centre's where no neighbour is full; R194's worked example. -/
def Obligations.AntiAliasingStaysInRange : Prop :=
  (∀ (c0 : Byte) (l : List Byte) (cvg : BitVec 3), AaMakes c0 l cvg (aaChannel c0 l cvg)) ∧
  (∀ (s : State) (c : RGB) (num : Int) (cvg : BitVec 3),
    let w : Int := s.geom.width
    let offsets : List Int := [-w - 1, -w + 1, -2, 2, w - 1, w + 1]
    let full16 : List RGB := offsets.filterMap fun off =>
      let (p, a) := memReadPair16 s (BitVec.ofInt 32 ((s.geom.origin.toNat / 2 : Nat) + num + off))
      if p.toNat % 2 = 1 ∧ a.toNat % 4 = 3 then
        some ⟨BitVec.ofNat 8 (8 * (p.toNat / 2048)), BitVec.ofNat 8 (8 * (p.toNat / 64 % 32)),
          BitVec.ofNat 8 (8 * (p.toNat / 2 % 32))⟩
      else none
    let full32 : List RGB := offsets.filterMap fun off =>
      let p := memRead32 s (BitVec.ofInt 32 ((s.geom.origin.toNat / 4 : Nat) + num + off))
      if p.toNat / 32 % 8 = 7 then
        some ⟨BitVec.ofNat 8 (p.toNat / 2 ^ 24), BitVec.ofNat 8 (p.toNat / 2 ^ 16),
          BitVec.ofNat 8 (p.toNat / 2 ^ 8)⟩
      else none
    let d16 := aaFilter s .bits16 c num cvg
    let d32 := aaFilter s .bits32 c num cvg
    AaMakes c.r (full16.map (·.r)) cvg d16.r ∧ AaMakes c.g (full16.map (·.g)) cvg d16.g ∧
    AaMakes c.b (full16.map (·.b)) cvg d16.b ∧
    AaMakes c.r (full32.map (·.r)) cvg d32.r ∧ AaMakes c.g (full32.map (·.g)) cvg d32.g ∧
    AaMakes c.b (full32.map (·.b)) cvg d32.b) ∧
  (∀ (c0 : Byte) (l : List Byte) (cvg : BitVec 3),
    (∃ lo ∈ c0 :: l, lo ≤ aaChannel c0 l cvg) ∧ (∃ hi ∈ c0 :: l, aaChannel c0 l cvg ≤ hi)) ∧
  (∀ (c0 : Byte) (cvg : BitVec 3), aaChannel c0 [] cvg = c0) ∧
  aaChannel 40#8 [200#8, 120#8] 3#3 = 80#8

/-- R197, R198, at the spec's default definition of the filter (log 14): a channel is the centre's
plus the neighbours above it less those below it, and does not wrap, and which eight neighbours are
counted, by which bits, in both formats; R196: so no channel of the filter differs from the centre's
by more than 8. -/
def Obligations.RestoreCountsNeighbours : Prop :=
  (∀ (c0 : Byte) (l : List (BitVec 5)), l.length ≤ 8 →
    ((restoreChannel c0 l).toNat : Int) = c0.toNat
      + (l.countP fun v => c0.toNat / 8 < v.toNat : Nat)
      - (l.countP fun v => v.toNat < c0.toNat / 8 : Nat)) ∧
  (∀ (s : State) (c : RGB) (num : Int),
    let w : Int := s.geom.width
    let offsets : List Int := [-w - 1, -w, -w + 1, w - 1, w, w + 1, -1, 1]
    let p16 := fun off : Int =>
      (memRead16 s (BitVec.ofInt 32 ((s.geom.origin.toNat / 2 : Nat) + num + off))).toNat
    let p32 := fun off : Int =>
      (memRead32 s (BitVec.ofInt 32 ((s.geom.origin.toNat / 4 : Nat) + num + off))).toNat
    let counts := fun (c0 d : Byte) (five : Int → Nat) => (d.toNat : Int) = c0.toNat
      + (offsets.countP fun off => c0.toNat / 8 < five off : Nat)
      - (offsets.countP fun off => five off < c0.toNat / 8 : Nat)
    let d16 := restoreFilter s .bits16 c num
    let d32 := restoreFilter s .bits32 c num
    counts c.r d16.r (fun off => p16 off / 2048) ∧ counts c.g d16.g (fun off => p16 off / 64 % 32) ∧
    counts c.b d16.b (fun off => p16 off / 2 % 32) ∧
    counts c.r d32.r (fun off => p32 off / 2 ^ 27) ∧
    counts c.g d32.g (fun off => p32 off / 2 ^ 19 % 32) ∧
    counts c.b d32.b (fun off => p32 off / 2 ^ 11 % 32)) ∧
  (∀ (s : State) (fmt : Fmt) (c : RGB) (num : Int),
    let d := restoreFilter s fmt c num
    d.r.toNat ≤ c.r.toNat + 8 ∧ c.r.toNat ≤ d.r.toNat + 8 ∧
    d.g.toNat ≤ c.g.toNat + 8 ∧ c.g.toNat ≤ d.g.toNat + 8 ∧
    d.b.toNat ≤ c.b.toNat + 8 ∧ c.b.toNat ≤ d.b.toNat + 8)

/-- R200: the divot filter leaves three full pixels alone and otherwise takes the median of each
channel, with the centre's coverage. -/
def Obligations.DivotTakesTheMedian : Prop :=
  ∀ (s : State) (w : Worker) (l c r : CCVG), WorkerIs s w →
    ∃ d : CCVG, exec (.divot l c r) s = .next (s.withWorker { w with sample := d }) ∧
      (l.cvg = 7#3 → c.cvg = 7#3 → r.cvg = 7#3 → d = c) ∧
      (¬(l.cvg = 7#3 ∧ c.cvg = 7#3 ∧ r.cvg = 7#3) → d.cvg = c.cvg ∧
        d.r.toNat = max (min l.r.toNat c.r.toNat)
          (min (max l.r.toNat c.r.toNat) r.r.toNat) ∧
        d.g.toNat = max (min l.g.toNat c.g.toNat)
          (min (max l.g.toNat c.g.toNat) r.g.toNat) ∧
        d.b.toNat = max (min l.b.toNat c.b.toNat)
          (min (max l.b.toNat c.b.toNat) r.b.toNat))

/-- R206: both gamma tables are twice an integer square root; every entry is even and at most
254. R207 to R211: the four gamma rows, and `GAMMA` by the two control bits, leave in the worker's
result register what the rules make of the colour and the noise word of the position. -/
def Obligations.GammaRowsResult : Prop :=
  ((∀ i : Byte, (gammaTable i).toNat = 2 * Nat.sqrt (64 * i.toNat)) ∧
  (∀ j : BitVec 14, (gammaDitherTable j).toNat = 2 * Nat.sqrt j.toNat) ∧
  (∀ i : Byte, (gammaTable i).toNat % 2 = 0 ∧ (gammaTable i).toNat ≤ 254) ∧
  (∀ j : BitVec 14, (gammaDitherTable j).toNat % 2 = 0 ∧ (gammaDitherTable j).toNat ≤ 254)) ∧
  (∀ (s : State) (w : Worker), WorkerIs s w →
    (∀ (c : RGB) (y x : Nat), ∃ g,
      exec (.gamma c y x) s = .next (s.withWorker { w with rgb := g }) ∧
      GammaMakes s.ctrl.gamma s.ctrl.gammaDither (ditherNoise s y x) c g) ∧
    (exec .gammaOff s = .next s) ∧
    (∃ g, exec .gammaDither s = .next (s.withWorker { w with rgb := g }) ∧
      GammaMakes false true (ditherNoise s w.y w.x) w.rgb g) ∧
    (∃ g, exec .gammaTable s = .next (s.withWorker { w with rgb := g }) ∧
      GammaMakes true false (ditherNoise s w.y w.x) w.rgb g) ∧
    (∃ g, exec .gammaTableDither s = .next (s.withWorker { w with rgb := g }) ∧
      GammaMakes true true (ditherNoise s w.y w.x) w.rgb g))

/-- R190 to R193, R196, R199: every fetch and fetch filter completes, writes its one result register
of the worker in turn (log 19) and nothing else. R190, R191, R192: what `FETCH(num)` returns, by
the colour type: the coverage, and the colour for a full pixel with and without the restore
filter and for a partly covered one. -/
def Obligations.FetchRowsResult : Prop :=
  (∀ (s : State) (w : Worker), WorkerIs s w →
    (∀ num, exec (.fetch num) s
      = .next (s.withWorker { w with num := num, sample := fetch s num })) ∧
    (s.ctrl.ctype = .rgba16 → exec .fetch16 s
      = .next (s.withWorker { w with sample := fetch s w.num })) ∧
    (s.ctrl.ctype = .rgba32 → exec .fetch32 s
      = .next (s.withWorker { w with sample := fetch s w.num })) ∧
    (exec .fetchBlank s = .next (s.withWorker { w with sample := ⟨0, 0, 0, 7⟩ })) ∧
    (∀ fmt c num cvg, exec (.aaFilter fmt c num cvg) s
      = .next (s.withWorker { w with rgb := aaFilter s fmt c num cvg })) ∧
    (∀ fmt c num, exec (.restoreFilter fmt c num) s
      = .next (s.withWorker { w with rgb := restoreFilter s fmt c num })) ∧
    (s.ctrl.ctype = .rgba16 → exec .restoreOn s
      = .next (s.withWorker { w with rgb := restoreFilter s .bits16 w.rgb w.num })) ∧
    (s.ctrl.ctype = .rgba32 → exec .restoreOn s
      = .next (s.withWorker { w with rgb := restoreFilter s .bits32 w.rgb w.num }))) ∧
  (∀ (s : State) (num : Int),
    let reads : Prop := s.ctrl.aaMode = .resampExtraAlways ∨ s.ctrl.aaMode = .resampExtra
    (s.ctrl.ctype = .rgba16 →
      let p := memReadPair16 s (BitVec.ofInt 32 ((s.geom.origin.toNat / 2 : Nat) + num))
      let raw : RGB := ⟨BitVec.ofNat 8 (8 * (p.1.toNat / 2048)),
        BitVec.ofNat 8 (8 * (p.1.toNat / 64 % 32)), BitVec.ofNat 8 (8 * (p.1.toNat / 2 % 32))⟩
      (reads → (fetch s num).cvg.toNat = 4 * (p.1.toNat % 2) + p.2.toNat % 4) ∧
      (¬reads → (fetch s num).cvg = 7#3) ∧
      ((fetch s num).cvg = 7#3 → s.ctrl.ditherFilter = false → (fetch s num).rgb = raw) ∧
      ((fetch s num).cvg = 7#3 → s.ctrl.ditherFilter = true →
        (fetch s num).rgb = restoreFilter s .bits16 raw num) ∧
      ((fetch s num).cvg ≠ 7#3 →
        (fetch s num).rgb = aaFilter s .bits16 raw num (fetch s num).cvg)) ∧
    (s.ctrl.ctype = .rgba32 →
      let p := memRead32 s (BitVec.ofInt 32 ((s.geom.origin.toNat / 4 : Nat) + num))
      let raw : RGB := ⟨BitVec.ofNat 8 (p.toNat / 2 ^ 24), BitVec.ofNat 8 (p.toNat / 2 ^ 16),
        BitVec.ofNat 8 (p.toNat / 2 ^ 8)⟩
      (reads → (fetch s num).cvg.toNat = p.toNat / 32 % 8) ∧
      (¬reads → (fetch s num).cvg = 7#3) ∧
      ((fetch s num).cvg = 7#3 → s.ctrl.ditherFilter = false → (fetch s num).rgb = raw) ∧
      ((fetch s num).cvg = 7#3 → s.ctrl.ditherFilter = true →
        (fetch s num).rgb = restoreFilter s .bits32 raw num) ∧
      ((fetch s num).cvg ≠ 7#3 →
        (fetch s num).rgb = aaFilter s .bits32 raw num (fetch s num).cvg)) ∧
    (s.ctrl.ctype = .blank ∨ s.ctrl.ctype = .reserved → fetch s num = ⟨0, 0, 0, 7⟩))

/-! ## The resolver (42_resolver.md) -/

/-- R230: the snapshot is a copy of all 14 registers, and nothing else changes. R233, R234: the PAL
test and the horizontal back-porch offset. -/
def Obligations.SnapshotAndStandardResult : Prop :=
  (∀ s : State, exec .resSnap s = .next (s.withSnap s.regs)) ∧
  (∀ s : State,
    exec .resTv s = .next (s.withGeom { s.geom with ispal := decide (550 < s.geom.vSync) }) ∧
    exec .resHporch s = .next (s.withGeom { s.geom with
      hStart := s.geom.hStart - (if s.geom.ispal then 128 else 108) }))

/-- R231, with the field positions of R124 to R131: the extents, the scale fields, the other fields
and the three cleared clamp flags. -/
def Obligations.ExtentResult : Prop :=
  ∀ s : State, exec .resExtent s = .next (s.withGeom { s.geom with
    hStart := (s.snap.hStart.toNat / 2 ^ 16 % 2 ^ 10 : Nat)
    hres := (s.snap.hStart.toNat % 2 ^ 10 : Nat) - (s.snap.hStart.toNat / 2 ^ 16 % 2 ^ 10 : Nat)
    vStartRaw := BitVec.ofNat 10 (s.snap.vStart.toNat / 2 ^ 16)
    vStart := (s.snap.vStart.toNat / 2 ^ 16 % 2 ^ 10 : Nat)
    vres := ((s.snap.vStart.toNat % 2 ^ 10 : Nat)
      - (s.snap.vStart.toNat / 2 ^ 16 % 2 ^ 10 : Nat) : Int) / 2
    xAdd := (s.snap.xScale.toNat % 2 ^ 12 : Nat)
    xStart := (s.snap.xScale.toNat / 2 ^ 16 % 2 ^ 12 : Nat)
    yAdd := (s.snap.yScale.toNat % 2 ^ 12 : Nat)
    yStart := (s.snap.yScale.toNat / 2 ^ 16 % 2 ^ 12 : Nat)
    vSync := s.snap.vSync.toNat % 2 ^ 10
    parity := decide (s.snap.vCurrentLine.toNat % 2 = 1)
    width := s.snap.width.toNat % 2 ^ 12
    origin := BitVec.ofNat 24 s.snap.origin.toNat
    hStartClamped := false
    hresClamped := false
    vresClamped := false })

/-- R232, R392 to R394: the colour type is recognised, `G.has_data` is its bit 1, and each of the
two warnings is reported at most once, in this order. -/
def Obligations.ControlStepResult : Prop :=
  ∀ s : State,
    let vbus : Bool := s.ctrl.vbusClock
    let glitch : Bool := decide (s.ctrl.aaMode = .replicate ∧ s.ctrl.ctype = .rgba16 ∧
      s.geom.hStart < 128 ∧ s.geom.xAdd ≤ 0x200)
    exec .resCtrl s = .next (((s.withGeom { s.geom with
        hasData := s.snap.control.getLsbD 1 }).withWarned
          ⟨s.warned.vbus || vbus, s.warned.nolerp16 || glitch⟩).withOut
      (s.out ++ (if vbus && !s.warned.vbus then [.report .warning 0x21 0] else [])
        ++ (if glitch && !s.warned.nolerp16 then [.report .warning 0x22 0] else [])))

/-- R235: a negative start advances the accumulator, shrinks the window and is clamped and flagged;
a start that is not negative changes nothing. -/
def Obligations.HorizontalClampResult : Prop :=
  ∀ s : State,
    (s.geom.hStart < 0 → exec .resHclamp0 s = .next (s.withGeom { s.geom with
      xStart := s.geom.xStart + s.geom.xAdd * (-s.geom.hStart)
      hres := s.geom.hres + s.geom.hStart
      hStart := 0
      hStartClamped := true })) ∧
    (0 ≤ s.geom.hStart → exec .resHclamp0 s = .next s)

/-- R236 to R240 for a valid-interlaced frame: the authority is inferred, the field follows it, and
five fields are persisted. `FIELD.INTERLACED` is the same effect. R236, R242, R240 (b) for any
other frame: the upper field, and only the serrate tracking is reset. -/
def Obligations.FieldStateMachineResult : Prop :=
  (∀ s : State, s.geom.hasData = true → s.ctrl.serrate = true →
    ∃ (a : Authority) (lower : Bool),
      (a = if s.interlace.prevSerrate = true ∧ s.interlace.authority = .undetermined then
          (if s.geom.parity ≠ s.interlace.prevParity then .hardware else .software)
        else s.interlace.authority) ∧
      (a = .hardware → lower = (s.geom.parity ^^ true)) ∧
      (a = .software → s.geom.vStartRaw = s.interlace.oldVStart →
        lower = (s.interlace.oldLowerfield ^^ true)) ∧
      (a = .software → s.geom.vStartRaw ≠ s.interlace.oldVStart →
        (lower = true ↔ s.geom.vStartRaw.toNat < s.interlace.oldVStart.toNat)) ∧
      (a = .undetermined → lower = false) ∧
      exec .resField s = .next ((s.withGeom { s.geom with
        validInterlace := true, lowerfield := lower }).withInterlace
          ⟨s.geom.parity, true, s.geom.vStartRaw, lower, a⟩) ∧
      exec .fieldInterlaced s = exec .resField s) ∧
  (∀ s : State, ¬(s.geom.hasData = true ∧ s.ctrl.serrate = true) →
    exec .resField s = .next ((s.withGeom { s.geom with
      validInterlace := false, lowerfield := false }).withInterlace
        { s.interlace with prevSerrate := false }))

/-- R241: the vertical offset, the halving toward zero, and the advance and clamp of a negative
start. R243: each extent is cut to the canvas of 640 by 625, and flagged, exactly when it passes the
edge. -/
def Obligations.VerticalPorchAndCanvasResult : Prop :=
  (∀ s : State,
    let v := Int.tdiv (s.geom.vStart - (if s.geom.ispal then 44 else 34)) 2
    (v < 0 → exec .resVporch s = .next (s.withGeom { s.geom with
      yStart := s.geom.yStart + s.geom.yAdd * (-v), vStart := 0 })) ∧
    (0 ≤ v → exec .resVporch s = .next (s.withGeom { s.geom with vStart := v }))) ∧
  (∀ s : State, exec .resCanvas s = .next (s.withGeom { s.geom with
    hres := if 640 < s.geom.hres + s.geom.hStart then 640 - s.geom.hStart else s.geom.hres
    hresClamped := s.geom.hresClamped || decide (640 < s.geom.hres + s.geom.hStart)
    vres := if 625 < s.geom.vres + s.geom.vStart then 625 - s.geom.vStart else s.geom.vres
    vresClamped := s.geom.vresClamped || decide (625 < s.geom.vres + s.geom.vStart) }))

/-- R244: an active-line count above the canvas is fatal, one that is not positive skips, and the
others go on, halved in a progressive frame. -/
def Obligations.ActiveLinesResult : Prop :=
  ∀ s : State,
    let v : Int := s.geom.vSync - (if s.geom.ispal then 44 else 34)
    (625 < v → exec .resVactive s
      = .next (raiseFatal .syncTooBig s.geom.vSync (s.withGeom { s.geom with vactive := v }))) ∧
    (v ≤ 0 → exec .resVactive s
      = .next (skipFrame .noActiveLines (s.withGeom { s.geom with vactive := v }))) ∧
    (0 < v → v ≤ 625 → s.ctrl.serrate = true →
      exec .resVactive s = .next (s.withGeom { s.geom with vactive := v })) ∧
    (0 < v → v ≤ 625 → s.ctrl.serrate = false →
      exec .resVactive s = .next (s.withGeom { s.geom with vactive := v / 2 }))

/-- R245, R247: the columns exempt from the border, and where the frame's pixels go. -/
def Obligations.BorderAndPointerResult : Prop :=
  ∀ s : State,
    exec .resBorder s = .next (s.withGeom { s.geom with
      minhpass := if s.geom.hStartClamped then 0 else 8
      maxhpass := if s.geom.hresClamped then s.geom.hres else s.geom.hres - 7 }) ∧
    exec .resPtr s = .next (s.withGeom { s.geom with
      linecount := if s.ctrl.serrate then 1280 else 640
      prescalePtr := s.geom.vStart * (if s.ctrl.serrate then 1280 else 640) + s.geom.hStart
        + (if s.geom.lowerfield then 640 else 0) })

/-- R246: the three skip tests in their order; a frame that passes them all goes on unchanged. R248:
an interlaced window that would pass the end of the buffer is fatal; any other goes on. -/
def Obligations.SkipTestsAndFitResult : Prop :=
  (∀ s : State,
    let blank : Prop := s.ctrl.serrate = false ∧ s.geom.hasData = false
    let empty : Prop := s.geom.hres ≤ 0 ∨ s.geom.vres ≤ 0
    (blank → exec .resSkip s = .next (skipFrame .blank s)) ∧
    (¬blank → empty → exec .resSkip s = .next (skipFrame .emptyWindow s)) ∧
    (¬blank → ¬empty → s.geom.origin = 0 → exec .resSkip s = .next (skipFrame .nullOrigin s)) ∧
    (¬blank → ¬empty → s.geom.origin ≠ 0 → exec .resSkip s = .next s)) ∧
  (∀ s : State,
    let tooTall : Prop := s.ctrl.serrate = true ∧ 625 < 2 * (s.geom.vStart + s.geom.vres)
    (tooTall → exec .resFit s
      = .next (raiseFatal .prescaleOverflow (s.geom.vStart + s.geom.vres) s)) ∧
    (¬tooTall → exec .resFit s = .next s))

/-- R250: from the state an accepted `UPDATE` leaves, the steps of the machine run the resolver's
fourteen operations in the order of R250, up to the first skip or fatal error. That each operation is
one step, and that those to come are held on the engine's list, is the model's choice (log 11). -/
def Obligations.ResolverRunsInOrder : Prop :=
  ∀ (s : State) (rest : List SeqOp), EngineTurn s → s.phase = .resolve →
    s.seq = ([.op .resSnap, .op .resExtent, .op .resCtrl, .op .resTv, .op .resHporch,
      .op .resHclamp0, .op .resField, .op .resVporch, .op .resCanvas, .op .resVactive,
      .op .resBorder, .op .resSkip, .op .resPtr, .op .resFit] : List SeqOp) ++ rest →
    (∀ t, resolveFrame (s.withSeq rest) = .go t → stepMany 14 s = some t ∧ t.seq = rest) ∧
    (∀ t, resolveFrame (s.withSeq rest) = .ended t →
      (t.phase = .idle ∨ t.phase = .halted) ∧ t.seq = [] ∧ ∃ n ≤ 14, stepMany n s = some t)

/-- R251: the bounds of an accepted frame's geometry, and of the accumulators, source columns,
source rows and row bases of its pixels. -/
def Obligations.AcceptedFrameBounds : Prop :=
  ∀ t : State, Accepted t →
    0 ≤ t.geom.hStart ∧ t.geom.hStart < 640 ∧ 0 < t.geom.hres ∧
    t.geom.hres ≤ 640 - t.geom.hStart ∧ 0 ≤ t.geom.vStart ∧ t.geom.vStart < 625 ∧
    0 < t.geom.vres ∧ t.geom.vres ≤ 625 - t.geom.vStart ∧
    0 ≤ t.geom.xStart ∧ t.geom.xStart ≤ 528255 ∧ 0 ≤ t.geom.yStart ∧ t.geom.yStart ≤ 94185 ∧
    (∀ x : Nat, (x : Int) < t.geom.hres →
      xaccOf t.geom x ≤ 3144960 ∧ accInt (xaccOf t.geom x) ≤ 3071) ∧
    (∀ y : Nat, (y : Int) < t.geom.vres →
      curryOf t.geom y ≤ 2653560 ∧ accInt (curryOf t.geom y) ≤ 2591 ∧
      t.geom.width * accInt (curryOf t.geom y) < 2 ^ 24)

/-- R249, R328: in an accepted frame, filtered or fast, distinct output pixels have distinct prescale
words. R87, R248, R321, R327, R348: every word an accepted frame's pixels and its composition
rectangles reach lies inside the prescale buffer. -/
def Obligations.AcceptedFrameWords : Prop :=
  (∀ (t : State) (y x y' x' : Nat), Accepted t →
    (y : Int) < t.geom.vres → (x : Int) < t.geom.hres →
    (y' : Int) < t.geom.vres → (x' : Int) < t.geom.hres →
    t.geom.prescalePtr + t.geom.linecount * y + x
      = t.geom.prescalePtr + t.geom.linecount * y' + x' → y = y' ∧ x = x') ∧
  (∀ t : State, Accepted t →
    (∀ y x : Nat, (y : Int) < t.geom.vres → (x : Int) < t.geom.hres →
      0 ≤ writeIndex t.geom y x ∧ writeIndex t.geom y x < 400000) ∧
    (0 < t.geom.vactive → (fullRect t.geom).inBuffer = true) ∧
    (0 < t.geom.maxhpass - t.geom.minhpass → (cropRect t.ctrl t.geom).inBuffer = true)) ∧
  (∀ t : State, AcceptedFast t →
    (∀ y x y' x' : Nat, (y : Int) < t.geom.vresRaw → (x : Int) < t.geom.hresRaw →
      (y' : Int) < t.geom.vresRaw → (x' : Int) < t.geom.hresRaw →
      y * t.geom.hresRaw + x = y' * t.geom.hresRaw + x' → y = y' ∧ x = x') ∧
    (∀ y x : Nat, (y : Int) < t.geom.vresRaw → (x : Int) < t.geom.hresRaw →
      0 ≤ y * t.geom.hresRaw + x ∧ y * t.geom.hresRaw + x < 400000) ∧
    (fastRect t.geom).inBuffer = true)

/-! ## The filtered pipeline (43_pipeline_filtered.md) -/

/-- R166, R280, R322: a worker issues exactly its own items, those whose number is its id modulo
`W`, in increasing order, in both tasks. That the items are issued onto the worker's list is the
model's choice (log 11). -/
def Obligations.TasksIssueTheirOwnItems : Prop :=
  ∀ (s : State) (w : Worker) (wid : Nat), WorkerIs s w → wid < s.disp.w →
    exec (.taskFilt wid) s = .next (s.withWorker { w with
      seq := ((List.range s.geom.vres.toNat).filter fun y => y % s.disp.w = wid).map
        (fun y => .op (.scanline y)) ++ w.seq }) ∧
    exec (.taskFast wid) s = .next (s.withWorker { w with
      seq := ((List.range s.geom.vresRaw.toNat).filter fun y => y % s.disp.w = wid).flatMap
        (fun y => (List.range s.geom.hresRaw.toNat).map fun x => .fastPixel y x) ++ w.seq })

/-- R281: the locals of a scanline, and what it issues: new caches, then every column in order. That
these are later steps, on the worker's list, is the model's choice (log 11). -/
def Obligations.ScanlineResult : Prop :=
  ∀ (s : State) (w : Worker) (y : Nat), WorkerIs s w →
    let curry := s.geom.yStart + y * s.geom.yAdd
    exec (.scanline y) s = .next (s.withWorker { w with
      y := y
      curry := curry
      srow := curry / 1024
      yfrac := BitVec.ofInt 5 (curry / 32)
      pixels := s.geom.width * (curry / 1024)
      nextpixels := s.geom.width * (curry / 1024) + s.geom.width
      seq := (.op .cacheNew :: (List.range s.geom.hres.toNat).map fun x => .op (.column y x))
        ++ w.seq })

/-- R283, R285: the caches of a new scanline are empty, with the initial markers, and the cache
invariants hold of them. -/
def Obligations.NewCachesResult : Prop :=
  ∀ (s : State) (w : Worker), WorkerIs s w →
    ∃ w', exec .cacheNew s = .next (s.withWorker w') ∧
      w'.rawc = ⟨[], s.geom.xStart / 1024 - 2⟩ ∧ w'.rawn = ⟨[], s.geom.xStart / 1024 - 2⟩ ∧
      (s.ctrl.divot = true → w'.divc = ⟨[], s.geom.xStart / 1024 - 1⟩ ∧
        w'.divn = ⟨[], s.geom.xStart / 1024 - 1⟩) ∧
      w' = { w with rawc := w'.rawc, rawn := w'.rawn, divc := w'.divc, divn := w'.divn } ∧
      ScanlineCaches s w'

/-- R284, R285: the columns above the marker up to the needed one are fetched from `base + k`, the
others stay as they are, the marker never falls, and no other register of the worker changes. -/
def Obligations.RawNeedResult : Prop :=
  ∀ (s : State) (w : Worker) (row : SrcRow) (base c : Int), WorkerIs s w →
    ∃ w', exec (.rawNeed row base c) s = .next (s.withWorker w') ∧
      w' = w.setRaw row (w'.raw row) ∧
      (w'.raw row).mark = max (w.raw row).mark c ∧
      (∀ k, (w.raw row).mark < k → k ≤ c →
        (w'.raw row).get k = some (fetch s (base + k))) ∧
      (∀ k, k ≤ (w.raw row).mark ∨ c < k → (w'.raw row).get k = (w.raw row).get k)

/-- R286, R285: with the raw taps filled, the divot columns above the marker up to the needed one
become the divot of the three raw columns around them, and the others stay. R286 gives the operation
with divot on; that by itself it does the same with divot off is the model's choice (log 28). -/
def Obligations.DivotNeedResult : Prop :=
  ∀ (s : State) (w : Worker) (row : SrcRow) (c : Int) (raw : Int → CCVG), WorkerIs s w →
    (∀ k, (w.div row).mark ≤ k → k ≤ c + 1 → (w.raw row).get k = some (raw k)) →
    ((w.div row).mark < c → c + 1 ≤ (w.raw row).mark) →
    ∃ w', exec (.divNeed row row c) s = .next (s.withWorker w') ∧
      w' = w.setDiv row (w'.div row) ∧
      (w'.div row).mark = max (w.div row).mark c ∧
      (∀ k, (w.div row).mark < k → k ≤ c →
        (w'.div row).get k = some (divot (raw (k - 1)) (raw k) (raw (k + 1)))) ∧
      (∀ k, k ≤ (w.div row).mark ∨ c < k → (w'.div row).get k = (w.div row).get k)

/-- R287, R285: `NEEDS` keeps the cache invariants, brings both rows up to the columns the pixel
reads, and changes nothing but the caches. -/
def Obligations.NeedsFillsBothRows : Prop :=
  ∀ (s : State) (w : Worker) (cur : Int), WorkerIs s w → ScanlineCaches s w →
    firstColumn s ≤ cur →
    ∃ w', exec (.needs cur) s = .next (s.withWorker w') ∧ ScanlineCaches s w' ∧
      w' = { w with rawc := w'.rawc, rawn := w'.rawn, divc := w'.divc, divn := w'.divn } ∧
      w.rawc.mark ≤ w'.rawc.mark ∧ w.rawn.mark ≤ w'.rawn.mark ∧
      w.divc.mark ≤ w'.divc.mark ∧ w.divn.mark ≤ w'.divn.mark ∧
      (s.ctrl.divot = false → cur + 1 ≤ w'.rawc.mark ∧ cur + 1 ≤ w'.rawn.mark) ∧
      (s.ctrl.divot = true → cur + 2 ≤ w'.rawc.mark ∧ cur + 2 ≤ w'.rawn.mark ∧
        cur + 1 ≤ w'.divc.mark ∧ cur + 1 ≤ w'.divn.mark)

/-- R288: `SEL` reads the divot cache of the row exactly when divot is on, else the raw cache, and
`DIVOT.ON` the divot cache at the column selected; a column that is not filled, which R285 (a) says
is never read, stops both (the model's choice, log 16). -/
def Obligations.SelectionResult : Prop :=
  ∀ (s : State) (w : Worker) (row : SrcRow) (k : Int) (v : CCVG), WorkerIs s w →
    (s.ctrl.divot = true → (w.div row).get k = some v → exec (.sel row k) s
      = .next (s.withWorker { w with selRow := row, selCol := k, sample := v })) ∧
    (s.ctrl.divot = false → (w.raw row).get k = some v → exec (.sel row k) s
      = .next (s.withWorker { w with selRow := row, selCol := k, sample := v })) ∧
    (s.ctrl.divot = true → (w.div row).get k = none → exec (.sel row k) s
      = .fault .cacheUnfilled) ∧
    (s.ctrl.divot = false → (w.raw row).get k = none → exec (.sel row k) s
      = .fault .cacheUnfilled) ∧
    ((w.div w.selRow).get w.selCol = some v → exec .divotOn s
      = .next (s.withWorker { w with sample := v })) ∧
    ((w.div w.selRow).get w.selCol = none → exec .divotOn s = .fault .cacheUnfilled)

/-- R288, R289, R290: the single sample in replicate mode or with both weights 0, else two
horizontal blends and a vertical one, for `BLEND`, `LERP3` and the four `AA.*` rows. -/
def Obligations.BlendRowsResult : Prop :=
  ∀ (s : State) (w : Worker) (cur : Int) (xf yf : BitVec 5) (c0 c1 n0 n1 : CCVG), WorkerIs s w →
    selected s.ctrl.divot w .current cur = some c0 →
    selected s.ctrl.divot w .current (cur + 1) = some c1 →
    selected s.ctrl.divot w .next cur = some n0 →
    selected s.ctrl.divot w .next (cur + 1) = some n1 →
    let three := lerp (lerp c0 c1 xf) (lerp n0 n1 xf) yf
    let mixed := if xf = 0 ∧ yf = 0 then c0 else three
    exec (.lerp3 cur xf yf) s = .next (s.withWorker { w with colour := three }) ∧
    exec (.blend cur xf yf) s = .next (s.withWorker { w with
      colour := if s.ctrl.aaMode = .replicate then c0 else mixed }) ∧
    (cur = w.lineX → xf = w.xfrac → yf = w.yfrac →
      exec .aaResampExtraAlways s = .next (s.withWorker { w with colour := mixed }) ∧
      exec .aaResampExtra s = .next (s.withWorker { w with colour := mixed }) ∧
      exec .aaResampOnly s = .next (s.withWorker { w with colour := mixed }) ∧
      exec .aaReplicate s = .next (s.withWorker { w with colour := c0 }))

/-- R292, R87: `WRITE` stores its word at the pixel's index, every other word of the prescale
buffer and everything else stays; outside the buffer, which the spec says cannot happen, the
model stops (log 16). -/
def Obligations.WriteResult : Prop :=
  ∀ (s : State) (y x : Nat) (v : Word), Prescale.wf s.prescale = true →
    let i : Int := s.geom.prescalePtr + s.geom.linecount * y + x
    (0 ≤ i → i < 400000 → ∃ t, exec (.write y x v) s = .next t ∧ t = s.withPrescale t.prescale ∧
      prescaleGet t.prescale i.toNat = v ∧
      ∀ j, j ≠ i.toNat → prescaleGet t.prescale j = prescaleGet s.prescale j) ∧
    (i < 0 ∨ 400000 ≤ i → exec (.write y x v) s = .fault .prescaleIndex)

/-- R293, R294 (a), R282: a worker in scanline `y` whose caches meet R285 writes `PIX(y, x)` at the
pixel's index and no other word, keeps R285, and changes nothing else but itself. R292, R291, R16: the
word is 0 in a border column, `x < minhpass` or `maxhpass <= x`, and in the columns between the packed
triple that the gamma rules make of the pixel's colour. -/
def Obligations.ColumnWritesPix : Prop :=
  ∀ (s : State) (w : Worker) (y x : Nat), WorkerIs s w → InScanline s y w → ScanlineCaches s w →
    0 ≤ s.geom.xAdd → Prescale.wf s.prescale = true →
    let i : Int := s.geom.prescalePtr + s.geom.linecount * y + x
    0 ≤ i → i < 400000 →
    ∃ t w', exec (.column y x) s = .next t ∧
      t = (s.withWorker w').withPrescale t.prescale ∧
      prescaleGet t.prescale i.toNat = pix s y x ∧
      ((x : Int) < s.geom.minhpass ∨ s.geom.maxhpass ≤ x → prescaleGet t.prescale i.toNat = 0) ∧
      (s.geom.minhpass ≤ x → (x : Int) < s.geom.maxhpass →
        ∃ g : RGB, GammaMakes s.ctrl.gamma s.ctrl.gammaDither (ditherNoise s y x)
            (pixColour s y x).rgb g ∧
          (prescaleGet t.prescale i.toNat).toNat
            = 65536 * g.r.toNat + 256 * g.g.toNat + g.b.toNat) ∧
      (∀ j, j ≠ i.toNat → prescaleGet t.prescale j = prescaleGet s.prescale j) ∧
      InScanline t y w' ∧ ScanlineCaches t w' ∧ w'.seq = w.seq

/-- R294 (c): with unity increments, replicate mode and every filter off, a visible pixel is the raw
source sample. -/
def Obligations.UnityScaleIdentity : Prop :=
  ∀ (s : State) (y x : Nat), s.geom.xAdd = 0x400 → s.geom.yAdd = 0x400 →
    s.ctrl.aaMode = .replicate → s.ctrl.divot = false → s.ctrl.ditherFilter = false →
    s.ctrl.gamma = false → s.ctrl.gammaDither = false →
    s.geom.minhpass ≤ x → (x : Int) < s.geom.maxhpass →
    let off : Int := s.geom.width * (s.geom.yStart / 1024 + y) + (s.geom.xStart / 1024 + x)
    (s.ctrl.ctype = .rgba16 → pix s y x
      = pack (rgb16 (memRead16 s (BitVec.ofInt 32 ((s.geom.origin.toNat / 2 : Nat) + off))))) ∧
    (s.ctrl.ctype = .rgba32 → pix s y x
      = pack (rgb32 (memRead32 s (BitVec.ofInt 32 ((s.geom.origin.toNat / 4 : Nat) + off)))))

/-! ## The fast pipeline (44_pipeline_fast.md) -/

/-- R320: after the prologue (R230 to R233 and R244) the native resolution is computed and the four
tests are made in their order; a frame that passes them goes on to `FAST.FIT`, which is issued as
the next step (the model's choice, log 11: R320 makes R321's check inside it). R321: a fast
image larger than the buffer is fatal; any other goes on unchanged. -/
def Obligations.FastGeometryAndFitResult : Prop :=
  (∀ s : State,
    let p := resolveTv (resolveCtrl (resolveExtent (takeSnapshot s))).state
    let v : Int := p.geom.vSync - (if p.geom.ispal then 44 else 34)
    let hr := Int.tdiv (p.geom.xAdd * p.geom.hres) 1024
    let vr := Int.tdiv (p.geom.yAdd * p.geom.vres) 1024
    let q := p.withGeom { p.geom with
      vactive := if p.ctrl.serrate then v else v / 2, hresRaw := hr, vresRaw := vr }
    let empty : Prop := hr ≤ 0 ∨ vr ≤ 0
    let odd : Prop := p.ctrl.serrate = true ∧ p.geom.parity = true
    let blank : Prop := p.cfgCopy.intent = .colorFast ∧ p.geom.hasData = false
    (625 < v ∨ v ≤ 0 → exec .fastGeom s = exec .resVactive p) ∧
    (0 < v → v ≤ 625 →
      (empty → exec .fastGeom s = .next (skipFrame .emptyWindow q)) ∧
      (¬empty → odd → exec .fastGeom s = .next (skipFrame .oddField q)) ∧
      (¬empty → ¬odd → blank → exec .fastGeom s = .next (skipFrame .blank q)) ∧
      (¬empty → ¬odd → ¬blank → p.geom.origin = 0 →
        exec .fastGeom s = .next (skipFrame .nullOrigin q)) ∧
      (¬empty → ¬odd → ¬blank → p.geom.origin ≠ 0 →
        exec .fastGeom s = .next (q.withSeq (.op .fastFit :: q.seq))))) ∧
  (∀ s : State,
    (400000 < s.geom.hresRaw * s.geom.vresRaw → exec .fastFit s
      = .next (raiseFatal .fastOverflow (s.geom.hresRaw * s.geom.vresRaw) s)) ∧
    (s.geom.hresRaw * s.geom.vresRaw ≤ 400000 → exec .fastFit s = .next s))

/-- R323 to R326: the four sample functions, as the rows of the operation map leave them in the
worker's result register (log 19). -/
def Obligations.FastSamplesResult : Prop :=
  ∀ (s : State) (w : Worker), WorkerIs s w →
    let half := fun base : BitVec 24 => BitVec.ofInt 32 ((base.toNat / 2 : Nat) + w.num)
    let p := memRead16 s (half s.geom.origin)
    let d := memRead32 s (BitVec.ofInt 32 ((s.geom.origin.toNat / 4 : Nat) + w.num))
    let z := BitVec.ofNat 8 ((memRead16 s (half s.zbOrigin)).toNat / 256)
    let c := BitVec.ofNat 8 (32 * (4 * (p.toNat % 2)
      + (memReadPair16 s (half s.geom.origin)).2.toNat % 4))
    exec .fastColor16 s = .next (s.withWorker { w with
      rgb := ⟨BitVec.ofNat 8 (8 * (p.toNat / 2048)), BitVec.ofNat 8 (8 * (p.toNat / 64 % 32)),
        BitVec.ofNat 8 (8 * (p.toNat / 2 % 32))⟩ }) ∧
    exec .fastColor32 s = .next (s.withWorker { w with
      rgb := ⟨BitVec.ofNat 8 (d.toNat / 2 ^ 24), BitVec.ofNat 8 (d.toNat / 2 ^ 16),
        BitVec.ofNat 8 (d.toNat / 2 ^ 8)⟩ }) ∧
    exec .fastDepth s = .next (s.withWorker { w with rgb := ⟨z, z, z⟩ }) ∧
    exec .fastCvg s = .next (s.withWorker { w with rgb := ⟨c, c, c⟩ })

/-- R322, R327, R328: one pass of the fast task writes the fast pixel at its dense index and no
other word. -/
def Obligations.FastPixelWrites : Prop :=
  ∀ (s : State) (w : Worker) (y x : Nat), WorkerIs s w → Prescale.wf s.prescale = true →
    s.cfgCopy.intent ≠ .normal →
    (s.cfgCopy.intent = .colorFast → s.ctrl.ctype = .rgba16 ∨ s.ctrl.ctype = .rgba32) →
    let i : Int := y * s.geom.hresRaw + x
    0 ≤ i → i < 400000 →
    ∃ t w', runOp (.fastPixel y x) s = .next t ∧ t = (s.withWorker w').withPrescale t.prescale ∧
      prescaleGet t.prescale i.toNat = fastPix s y x ∧
      (∀ j, j ≠ i.toNat → prescaleGet t.prescale j = prescaleGet s.prescale j) ∧ w'.seq = w.seq

/-! ## Composition (45_composition.md) -/

/-- R342: a change of intent zeroes the whole prescale buffer and is remembered; no change does
nothing. -/
def Obligations.ModeSwitchResult : Prop :=
  ∀ s : State,
    (s.cfgCopy.intent = s.lastIntent → exec .modesw s = .next s) ∧
    (s.cfgCopy.intent ≠ s.lastIntent → ∃ t, exec .modesw s = .next t ∧
      t = (s.withPrescale t.prescale).withLastIntent s.cfgCopy.intent ∧
      ∀ i, prescaleGet t.prescale i = 0)

/-- R343 to R347: the three rectangles, where they are not empty, and the widescreen compression of
any of them. -/
def Obligations.RectanglesResult : Prop :=
  ∀ s : State,
    let g := s.geom
    let n : Int := g.vSync
    let crop := g.maxhpass - g.minhpass
    let two : Int := if s.ctrl.serrate then 2 else 1
    (0 < g.vSync → 0 < g.vactive → exec .composeFull s = .next (s.withDesc
      ⟨0, 640, g.vactive, 640, Int.tdiv ((n - (if g.ispal then 44 else 34)) * 525) n⟩)) ∧
    (g.vactive ≤ 0 → exec .composeFull s = .next (skipFrame .emptyCrop s)) ∧
    (0 < g.vSync → 0 < crop → exec .composeCrop s = .next (s.withDesc
      ⟨two * g.vStart * 640 + g.hStart + g.minhpass, crop, two * g.vres, 640,
        Int.tdiv (2 * g.vres * 525) n⟩)) ∧
    (crop ≤ 0 → exec .composeCrop s = .next (skipFrame .emptyCrop s)) ∧
    (0 < g.vSync → g.hres ≠ 0 → exec .composeFast s = .next (s.withDesc
      ⟨0, g.hresRaw, g.vresRaw, g.hresRaw,
        Int.tdiv (g.hresRaw * Int.tdiv (2 * g.vres * 525) n) g.hres⟩)) ∧
    (exec .widescreen s = .next (s.withDesc { s.desc with
      targetHeight := Int.tdiv (s.desc.targetHeight * 9) 16 }))

/-- R348, R350, R353: the sink's event carries the descriptor and the pixels it designates; a
snapshot writes the file or warns and clears the request; the present signal is one event. None
writes anything else. -/
def Obligations.PictureEventsResult : Prop :=
  ∀ s : State,
    (exec .present s = .next (s.withOut (s.out ++ [.present]))) ∧
    (s.desc.inBuffer = true →
      (∃ px : List (List Word),
        exec .sink s = .next (s.withOut (s.out ++ [.sink s.desc px])) ∧
        px.length = s.desc.height.toNat ∧ (∀ r ∈ px, r.length = s.desc.width.toNat) ∧
        ∀ row col : Nat, (row : Int) < s.desc.height → (col : Int) < s.desc.width →
          (px[row]?.bind fun r => r[col]?)
            = some (prescaleGet s.prescale (s.desc.ptr + row * s.desc.pitch + col).toNat)) ∧
      (exec .snapshot s = .next ((s.withOut (s.out ++
        ([if Config.fileOpens s.snapreq.path then
            .file s.snapreq.path (bmpBytes s.prescale s.desc)
          else .report .warning 0x23 0] : List OutEvent))).withSnapreq
            { s.snapreq with pending := false })))

/-- R354: the file's size is that of its headers and its pixels, every header field stands at its
offset, little-endian, and every pixel at its place, bottom row first, blue, green, red, high byte.
R349: the row map copies rows where the two heights are equal, is else the floor of the proportional
position, and stays inside the picture; the pixels are those of the rows it gives. A 4-byte field
that passed 2^32 would be reduced (log 25); the byte string is left in the model's register `bmp`
(log 19). -/
def Obligations.BitmapResult : Prop :=
  ∀ s : State, s.desc.inBuffer = true → 0 < s.desc.height → 0 < s.desc.width →
    0 ≤ s.desc.targetHeight →
    (∀ t : Nat, (t : Int) < s.desc.targetHeight →
      (s.desc.height = s.desc.targetHeight → rowMap s.desc t = t) ∧
      (s.desc.height ≠ s.desc.targetHeight →
        rowMap s.desc t = t * s.desc.height.toNat / s.desc.targetHeight.toNat) ∧
      (rowMap s.desc t : Int) ≤ s.desc.height - 1) ∧
    ∃ b : List Byte, exec .bmp s = .next (s.withBmp b) ∧
      (b.length : Int) = 54 + s.desc.width * s.desc.targetHeight * 4 ∧
      b.take 2 = [0x42#8, 0x4D#8] ∧
      (let size := s.desc.width.toNat * s.desc.targetHeight.toNat * 4;
        (∀ f ∈ ([(2, 54 + size), (10, 54), (14, 40), (18, s.desc.width.toNat),
            (22, s.desc.targetHeight.toNat), (30, 0), (34, size), (38, 0), (42, 0), (46, 0),
            (50, 0)] : List (Nat × Nat)), ∀ j < 4,
          b[f.1 + j]? = some (BitVec.ofNat 8 (f.2 / 256 ^ j))) ∧
        (∀ f ∈ ([(6, 0), (8, 0), (26, 1), (28, 32)] : List (Nat × Nat)), ∀ j < 2,
          b[f.1 + j]? = some (BitVec.ofNat 8 (f.2 / 256 ^ j)))) ∧
      ∀ k col : Nat, (k : Int) < s.desc.targetHeight → (col : Int) < s.desc.width →
        let t : Nat := s.desc.targetHeight.toNat - 1 - k
        let row : Nat := if s.desc.height = s.desc.targetHeight then t
          else t * s.desc.height.toNat / s.desc.targetHeight.toNat
        let v := prescaleGet s.prescale (s.desc.ptr + row * s.desc.pitch + col).toNat
        let at4 := 54 + (k * s.desc.width.toNat + col) * 4
        b[at4]? = some (v.extractLsb' 0 8) ∧ b[at4 + 1]? = some (v.extractLsb' 8 8) ∧
        b[at4 + 2]? = some (v.extractLsb' 16 8) ∧ b[at4 + 3]? = some (v.extractLsb' 24 8)

/-! ## The host's commands (40_dispatcher.md, 45_composition.md) -/

/-- R161: the pool is constructed with the requested number of workers, or the detected one for 0;
in any other dispatcher state it is refused. What a new worker's locals and caches hold, which the
spec leaves unspecified, and the cleared stop request are the model's choice (logs 3 and 21), and the
detected number is an open parameter (log 5). -/
def Obligations.InitResult : Prop :=
  ∀ s : State, HostMay s →
    let n := if s.cfg.workersReq.toNat = 0 then Config.hwParallelism else s.cfg.workersReq.toNat
    1 ≤ n ∧
    (s.disp.state = .unconstructed → exec .dispInit s = .next ((s.withDisp
      ⟨.ready, n, none, List.replicate n .idle, false⟩).withWorkers
        (List.replicate n Worker.fresh))) ∧
    (s.disp.state ≠ .unconstructed → exec .dispInit s = .refused .dispatcherState)

/-- R168, R352, R357: the worker count is returned (in the register `ret`, log 19), the snapshot
request recorded, the configuration written by its fields. -/
def Obligations.HostRegisterCommandsResult : Prop :=
  ∀ s : State, HostMay s →
    (s.disp.state = .ready ∨ s.disp.state = .running →
      exec .dispWcount s = .next (s.withRet (some s.disp.w))) ∧
    (¬(s.disp.state = .ready ∨ s.disp.state = .running) →
      exec .dispWcount s = .refused .dispatcherState) ∧
    (∀ path, exec (.snapreq path) s = .next (s.withSnapreq ⟨true, path⟩)) ∧
    (∀ arg : BitVec 24, exec (.cfgwr arg) s = .next (s.withCfg
      { intent := decodeIntent (BitVec.ofNat 2 arg.toNat)
        widescreen := decide (arg.toNat / 4 % 2 = 1)
        hideOverscan := decide (arg.toNat / 8 % 2 = 1)
        workersReq := BitVec.ofNat 8 (arg.toNat / 256) }))

/-- R160, R169: a teardown of an idle pool stops it at once, the join follows at the engine's next
step (the model's two steps, log 20); with a round in flight it is remembered (log 21), and the
round's barrier then stops the pool, the join again following; otherwise it is refused. -/
def Obligations.TeardownResult : Prop :=
  (∀ s : State, HostMay s → s.env = [] →
    (s.disp.state = .ready → ∃ t u, exec .dispTeardown s = .next t ∧
      t = (s.withDisp { s.disp with state := .stopping }).withSeq (.joinWorkers :: s.seq) ∧
      step t = .next u ∧ u = s.withDisp { s.disp with state := .tornDown }) ∧
    (s.disp.state = .running → exec .dispTeardown s
      = .next (s.withDisp { s.disp with stopReq := true })) ∧
    (s.disp.state ≠ .ready → s.disp.state ≠ .running →
      exec .dispTeardown s = .refused .dispatcherState)) ∧
  (∀ s : State, s.env = [] → s.phase ≠ .halted → s.disp.state = .running → s.disp.stopReq = true →
    (∀ st ∈ s.disp.wstat, st = .done) →
    ∃ t u, step s = .next t ∧ t.disp.state = .stopping ∧ step t = .next u ∧
      u = s.withDisp ⟨.tornDown, s.disp.w, none, s.disp.wstat.map fun _ => .idle, false⟩)

/-- R340, R341: an accepted `UPDATE` samples the configuration, enters `Resolve` and starts the
sequence of R340 for the sampled intent; `PIPE.FILT` is its call of `DISP.RUN(TASK_FILT)`. -/
def Obligations.UpdateStartsTheSequence : Prop :=
  ∀ s : State,
    (exec .pipeFilt s = .next (s.withSeq (.op (.dispRun .filt) :: s.seq))) ∧
    (HostMay s → s.cfg.intent = .normal → exec .update s
      = .next (((s.withCfgCopy s.cfg).withPhase .resolve).withSeq
        (([.op .resSnap, .op .resExtent, .op .resCtrl, .op .resTv, .op .resHporch, .op .resHclamp0,
          .op .resField, .op .resVporch, .op .resCanvas, .op .resVactive, .op .resBorder,
          .op .resSkip, .op .resPtr, .op .resFit, .op .modesw, .phase .render, .stage .pipeline,
          .phase .compose, .stage .compose, .stage .widescreen, .op .sink, .snapshotIfPending,
          .op .present, .finish] : List SeqOp) ++ s.seq))) ∧
    (HostMay s → s.cfg.intent ≠ .normal → exec .update s
      = .next (((s.withCfgCopy s.cfg).withPhase .resolve).withSeq
        (([.op .fastGeom, .op .modesw, .phase .render, .op (.dispRun .fast), .phase .compose,
          .op .composeFast, .stage .widescreen, .op .sink, .snapshotIfPending, .op .present,
          .finish] : List SeqOp) ++ s.seq)))

/-- R390, R385, R43: with `FAULT.valid = 1` or outside `Idle` every host command and every host write
(of registers, memory in each of its three views, and `ZB_ORIGIN`) is refused. That a write is refused
with `FAULT.valid = 1` alone is the model's reading (log 17), and that the fault is named before the
phase its choice (log 22). -/
def Obligations.HostPortRefuses : Prop :=
  (∀ (s : State) (i : Instr), encode i ≠ .seq → (∀ st m, encode i ≠ .mode st m) →
    (s.fault.valid = true → exec i s = .refused .faulted) ∧
    (s.fault.valid = false → s.phase ≠ .idle → exec i s = .refused .busy)) ∧
  (∀ (s : State) (a : HostAction), (∀ w path, a ≠ .command w path) →
    (s.fault.valid = true → hostAction a s = .refused .faulted) ∧
    (s.fault.valid = false → s.phase ≠ .idle → hostAction a s = .refused .busy))

/-! ## The dispatcher (40_dispatcher.md) -/

/-- R162, R167, R170: `DISP.RUN` broadcasts on a ready dispatcher, is refused while a round runs,
and is fatal on any other, with no state of the round written. R171: the failure of a worker in
a round is fatal with the worker's id; the round's barrier never fires, because the machine is
halted. -/
def Obligations.RunAndWorkerFailureResult : Prop :=
  (∀ (s : State) (task : Task),
    (s.disp.state = .ready → exec (.dispRun task) s = .next (s.withDisp
      ⟨.running, s.disp.w, some task, s.disp.wstat.map fun _ => .pending, s.disp.stopReq⟩)) ∧
    (s.disp.state = .running → exec (.dispRun task) s = .refused .reentrantRun) ∧
    (s.disp.state = .stopping ∨ s.disp.state = .tornDown ∨ s.disp.state = .unconstructed →
      exec (.dispRun task) s = .next (raiseFatal .illegalState 0 s))) ∧
  (∀ (s : State) (wid : Nat) (rest : List EnvEvent), s.env = .workerFailure wid :: rest →
    s.phase ≠ .halted → s.disp.state = .running →
    s.disp.wstat[wid]? = some .pending ∨ s.disp.wstat[wid]? = some .busy →
    step s = .next (raiseFatal .workerFailure wid (s.withEnv rest)))

/-- R163, R164, R165: the steps of a round: while some worker is not done, one of those that are not
has the step, whichever the free choice falls on (log 8); it starts with the task and its own id, and
ends when it has nothing left to run (on its list, log 11); the barrier fires when every worker is
done, and leads to `Stopping` if a teardown waited for it (R160; the join it issues, logs 20 and
21). -/
def Obligations.RoundSteps : Prop :=
  ∀ (s : State),
    (s.env = [] → s.phase ≠ .halted → s.disp.state = .running →
      s.workers.length = s.disp.wstat.length → (∃ st ∈ s.disp.wstat, st = .pending ∨ st = .busy) →
      ∃ i w, WorkerTurn s i w ∧
        (s.disp.wstat[i]? = some .pending ∨ s.disp.wstat[i]? = some .busy)) ∧
    (∀ i w, WorkerTurn s i w → s.disp.wstat[i]? = some .pending →
      step s = .next ((((afterChoice s).withMe i).withDisp
        { s.disp with wstat := s.disp.wstat.set i .busy }).withWorkers (s.workers.set i { w with
          seq := match s.disp.task with
            | some .filt => [.op (.taskFilt i)]
            | some .fast => [.op (.taskFast i)]
            | none => [] }))) ∧
    (∀ i w, WorkerTurn s i w → s.disp.wstat[i]? = some .busy → w.seq = [] →
      step s = .next (((afterChoice s).withMe i).withDisp
        { s.disp with wstat := s.disp.wstat.set i .done })) ∧
    (s.env = [] → s.phase ≠ .halted → s.disp.state = .running →
      (∀ st ∈ s.disp.wstat, st = .done) →
      (s.disp.stopReq = false → step s = .next (s.withDisp
        ⟨.ready, s.disp.w, none, s.disp.wstat.map fun _ => .idle, false⟩)) ∧
      (s.disp.stopReq = true → step s = .next ((s.withDisp
        ⟨.stopping, s.disp.w, none, s.disp.wstat.map fun _ => .idle, false⟩).withSeq
          (.joinWorkers :: s.seq))))

/-- R160: in every step `DISP.state` stays or moves along an edge, and `DISP.W` stays once the pool
is constructed; only a reset does otherwise. -/
def Obligations.DispatcherMovesAlongItsEdges : Prop :=
  ∀ s t : State, step s = .next t →
    (dispEdge s.disp.state t.disp.state = true ∧
      (s.disp.state ≠ .unconstructed → t.disp.w = s.disp.w)) ∨
    ∃ r, exec .reset r = .next t

/-! ## Outcomes (60_exceptions.md) -/

/-- R381, R382: raising a fatal error sets `FAULT`, reports, halts and abandons the sequence;
nothing else changes but the model's own outcome register; the codes of the six causes. R388: a
skip ends the update in `Idle`, appends nothing to `OUT` and does not touch `FAULT`; nothing
else changes but the model's own outcome register. -/
def Obligations.FatalErrorAndSkipEffect : Prop :=
  ((∀ (c : FatalCause) (info : Int) (s : State),
    raiseFatal c info s = (((((s.withOut (s.out ++
      [.report .fatal (fatalCode c) (BitVec.ofInt 32 info)])).withFault
        ⟨true, fatalCode c, BitVec.ofInt 32 info⟩).withPhase .halted).withSeq []).withOutcome
          (some (.fault c)))) ∧
  fatalCode .colorType = 0x01 ∧ fatalCode .syncTooBig = 0x02 ∧ fatalCode .illegalState = 0x03 ∧
  fatalCode .workerFailure = 0x04 ∧ fatalCode .prescaleOverflow = 0x05 ∧
  fatalCode .fastOverflow = 0x06) ∧
  (∀ (c : SkipCause) (s : State),
    skipFrame c s = ((s.withPhase .idle).withSeq []).withOutcome (some (.skip c)) ∧
    (skipFrame c s).out = s.out ∧ (skipFrame c s).fault = s.fault ∧
    (skipFrame c s).phase = .idle)

/-- R385, R50, R43: a halted block takes no step but a reset: an event of the environment passes it
by, every action of the host is refused, and with none pending nothing happens. -/
def Obligations.HaltedAcceptsOnlyReset : Prop :=
  ∀ s : State, s.fault.valid = true → s.phase = .halted →
    (∀ t, step s = .next t → s.env.head? = some .reset ∨ t = s.withEnv s.env.tail) ∧
    (s.env.head? = some .reset → ∃ t, step s = .next t ∧ t.fault.valid = false ∧
      t.phase = .idle) ∧
    (s.env = [] → s.host ≠ [] → ∃ r, step s = .refused r)

/-! ## The machine -/

/-- R120, R136: a step runs the operation that is decoded or issued: the host's command word, the
engine's next operation or the row its stage selects, and, of the worker that the free choice falls
on (log 8), its next operation or row. The host's queue is the model's (log 10), and so are the lists
of issued operations (log 11). -/
def Obligations.StepRunsTheDecodedOperation : Prop :=
  ∀ (s : State) (i : Instr),
    (∀ w path r, EngineTurn s → s.seq = [] → s.phase = .idle → s.host = .command w path :: r →
      decodeCmd w path = .ok i → step s = exec i (s.withHost r)) ∧
    (∀ r, EngineTurn s → s.seq = .op i :: r → step s = exec i (s.withSeq r)) ∧
    (∀ st r, EngineTurn s → s.seq = .stage st :: r → decodeMode st s.mode = .ok i →
      step s = exec i (s.withSeq r)) ∧
    (∀ k w r, WorkerTurn s k w → s.disp.wstat[k]? = some .busy → w.seq = .op i :: r →
      step s = exec i (((afterChoice s).withMe k).withWorkers
        (s.workers.set k { w with seq := r }))) ∧
    (∀ k w st r, WorkerTurn s k w → s.disp.wstat[k]? = some .busy → w.seq = .stage st :: r →
      decodeMode st s.mode = .ok i →
      step s = exec i (((afterChoice s).withMe k).withWorkers
        (s.workers.set k { w with seq := r })))

/-- R50, R340, R141, R322, R432: a step runs what is issued besides the operations of the table: a
change of phase, the end of the update, the snapshot exactly when one is requested, a stage without a
row, which does nothing where R141 lists no complement and is refused elsewhere (log 24), and a
worker's pass of the fast task; a step of the idle block takes the host's oldest action, and with none
nothing happens. What is issued, the host's queue and the environment's events are held as the model
chooses (logs 10 and 11); a worker failure outside a round does nothing (log 9). -/
def Obligations.StepRunsEveryOtherMove : Prop :=
  ∀ s : State,
    (∀ r, EngineTurn s →
      (∀ p, s.seq = .phase p :: r → step s = .next ((s.withSeq r).withPhase p)) ∧
      (s.seq = .finish :: r →
        step s = .next (((s.withSeq r).withPhase .idle).withOutcome (some .ok))) ∧
      (s.seq = .snapshotIfPending :: r →
        (s.snapreq.pending = true → step s = exec .snapshot (s.withSeq r)) ∧
        (s.snapreq.pending = false → step s = .next (s.withSeq r))) ∧
      (∀ st, s.seq = .stage st :: r → decodeMode st s.mode = .error (.noModeRow st) →
        (st ∈ [Stage.restore, .divot, .field, .widescreen] → step s = .next (s.withSeq r)) ∧
        (st ∉ [Stage.restore, .divot, .field, .widescreen] →
          step s = .refused (.noModeRow st)))) ∧
    (∀ k w r, WorkerTurn s k w → s.disp.wstat[k]? = some .busy →
      let t := ((afterChoice s).withMe k).withWorkers (s.workers.set k { w with seq := r })
      (∀ y x, w.seq = .fastPixel y x :: r → step s = runOp (.fastPixel y x) t) ∧
      (∀ st, w.seq = .stage st :: r → decodeMode st s.mode = .error (.noModeRow st) →
        (st ∈ [Stage.restore, .divot, .field, .widescreen] → step s = .next t) ∧
        (st ∉ [Stage.restore, .divot, .field, .widescreen] →
          step s = .refused (.noModeRow st)))) ∧
    (EngineTurn s → s.seq = [] → s.phase = .idle →
      (∀ a r, s.host = a :: r → step s = hostAction a (s.withHost r)) ∧
      (s.host = [] → step s = .next s)) ∧
    (∀ r, s.env = .quiet :: r → step s = machineStep (s.withEnv r)) ∧
    (∀ k r, s.env = .workerFailure k :: r →
      s.phase = .halted ∨ s.disp.state ≠ .running ∨
        (s.disp.wstat[k]? ≠ some .pending ∧ s.disp.wstat[k]? ≠ some .busy) →
      step s = .next (s.withEnv r))

/-- R430, R431, R65: a reset is accepted in every state and leaves what the block owns at the values
of R65, the external state as it was; nothing else leads out of `Halted`. -/
def Obligations.ResetResult : Prop :=
  ∀ s : State, (∃ t, exec .reset s = .next t ∧
      t.cfg = ⟨.normal, false, false, 0⟩ ∧
      t.interlace = ⟨false, false, 0, false, .undetermined⟩ ∧
      t.warned = ⟨false, false⟩ ∧ t.lastIntent = .normal ∧ t.snapreq.pending = false ∧
      (∀ i, prescaleGet t.prescale i = 0) ∧ t.fault.valid = false ∧
      t.disp.state = .unconstructed ∧ t.phase = .idle ∧ t.out = [] ∧
      t.workers = [] ∧ t.seq = [] ∧
      t.regs = s.regs ∧ t.mem = s.mem ∧ t.aux = s.aux ∧ t.zbOrigin = s.zbOrigin ∧
      t.noise = s.noise) ∧
    (∀ rest, s.env = .reset :: rest → step s = exec .reset (s.withEnv rest)) ∧
    (∀ t, s.fault.valid = true → s.phase = .halted → step s = .next t → t.phase ≠ .halted →
      s.env.head? = some .reset)

/-- R60, R356: `OUT` only grows, except by a reset; and while a round is in flight the steps of the
workers append nothing to it and write no record the round reads. -/
def Obligations.OutputIsAppendOnly : Prop :=
  (∀ s t : State, step s = .next t → (∃ l, t.out = s.out ++ l) ∨ ∃ r, exec .reset r = .next t) ∧
  (∀ s t : State, ControlInv s → s.env = [] → s.phase ≠ .halted → s.disp.state = .running →
    step s = .next t → t.out = s.out ∧ t.geom = s.geom ∧ t.snap = s.snap ∧ t.phase = s.phase ∧
      t.cfgCopy = s.cfgCopy ∧ t.interlace = s.interlace ∧ t.mem = s.mem ∧ t.disp.w = s.disp.w)

/-- R15, R35 to R44, R47, R50, R60, R80: no operation writes emulated memory or the register file,
and every record of the engine is written by the operations its rules name and by no other. R52,
R205: the noise is no state: no step changes it, and no step the memory's limit (log 4). -/
def Obligations.RecordsHaveTheirWriters : Prop :=
  (∀ s t : State, step s = .next t → t.noise = s.noise ∧ t.memLimit = s.memLimit) ∧
  ∀ (i : Instr) (s t : State), exec i s = .next t →
    (t.regs = s.regs ∧ t.mem = s.mem ∧ t.aux = s.aux ∧ t.zbOrigin = s.zbOrigin ∧
      t.memLimit = s.memLimit ∧ t.noise = s.noise) ∧
    (i ≠ .reset →
      ((∀ a, i ≠ .cfgwr a) → t.cfg = s.cfg) ∧
      (i ≠ .resSnap → i ≠ .fastGeom → t.snap = s.snap) ∧
      (i ≠ .resField → i ≠ .fieldInterlaced → t.interlace = s.interlace) ∧
      (s.interlace.authority ≠ .undetermined →
        t.interlace.authority = s.interlace.authority) ∧
      (i ≠ .resCtrl → i ≠ .fastGeom → t.warned = s.warned) ∧
      (s.warned.vbus = true → t.warned.vbus = true) ∧
      (s.warned.nolerp16 = true → t.warned.nolerp16 = true) ∧
      (i ≠ .modesw → t.lastIntent = s.lastIntent) ∧
      (i ≠ .snapshot → (∀ p, i ≠ .snapreq p) → t.snapreq = s.snapreq) ∧
      (i ≠ .modesw → (∀ y x, i ≠ .column y x) → (∀ y x v, i ≠ .write y x v) →
        t.prescale = s.prescale) ∧
      (i ≠ .dispInit → i ≠ .dispTeardown → (∀ k, i ≠ .dispRun k) → t.disp = s.disp) ∧
      (i ≠ .update → t.cfgCopy = s.cfgCopy) ∧
      (i ∉ ([.resExtent, .resCtrl, .resTv, .resHporch, .resHclamp0, .resField, .fieldInterlaced,
          .resVporch, .resCanvas, .resVactive, .resBorder, .resPtr, .fastGeom] : List Instr) →
        t.geom = s.geom) ∧
      (i ∉ ([.composeFull, .composeCrop, .composeFast, .widescreen] : List Instr) →
        t.desc = s.desc) ∧
      (i ∉ ([.resVactive, .resFit, .fastGeom, .fastFit, .dispRun .filt, .dispRun .fast]
          : List Instr) → t.fault = s.fault) ∧
      (i ∉ ([.update, .resVactive, .resSkip, .resFit, .fastGeom, .fastFit, .dispRun .filt,
          .dispRun .fast, .composeFull, .composeCrop] : List Instr) → t.phase = s.phase) ∧
      (i ∉ ([.resCtrl, .resVactive, .resFit, .fastGeom, .fastFit, .dispRun .filt, .dispRun .fast,
          .sink, .snapshot, .present] : List Instr) → t.out = s.out))

/-- The data and the control invariant hold of the state after reset (whose memory and unstated
registers are the model's choice, logs 1 to 4). -/
def Obligations.InvariantsHoldAtReset : Prop :=
  DataInv State.reset = true ∧ ControlInv State.reset

/-- R42, R87: from every state whose memories are canonical, whose prescale words lie in the buffer
with a high byte of 0 and whose issued operations are well formed, a step leads to such a state. -/
def Obligations.DataInvariantIsKept : Prop :=
  ∀ s t : State, DataInv s = true → step s = .next t → DataInv t = true

/-- R40, R43, R44, R50: from every state in which `Halted` and `FAULT.valid` agree, the dispatcher
and its pool agree and the geometry lies in its ranges, a step leads to such a state. -/
def Obligations.ControlInvariantIsKept : Prop :=
  ∀ s t : State, ControlInv s → step s = .next t → ControlInv t
end

