-- ==== Sys2Proof/Laws/State.lean ====
section
/-! SUPPORT. One lemma per field per write of a field of `State`: what it becomes, or that it stays. -/

namespace Sys2Proof.Machine

@[simp] theorem State.withRegs_regs (s : State) (v : Regs) : (s.withRegs v).regs = v := rfl
@[simp] theorem State.withRegs_mem (s : State) (v : Regs) : (s.withRegs v).mem = s.mem := rfl
@[simp] theorem State.withRegs_aux (s : State) (v : Regs) : (s.withRegs v).aux = s.aux := rfl
@[simp] theorem State.withRegs_memLimit (s : State) (v : Regs) : (s.withRegs v).memLimit = s.memLimit := rfl
@[simp] theorem State.withRegs_zbOrigin (s : State) (v : Regs) : (s.withRegs v).zbOrigin = s.zbOrigin := rfl
@[simp] theorem State.withRegs_noise (s : State) (v : Regs) : (s.withRegs v).noise = s.noise := rfl
@[simp] theorem State.withRegs_host (s : State) (v : Regs) : (s.withRegs v).host = s.host := rfl
@[simp] theorem State.withRegs_env (s : State) (v : Regs) : (s.withRegs v).env = s.env := rfl
@[simp] theorem State.withRegs_cfg (s : State) (v : Regs) : (s.withRegs v).cfg = s.cfg := rfl
@[simp] theorem State.withRegs_phase (s : State) (v : Regs) : (s.withRegs v).phase = s.phase := rfl
@[simp] theorem State.withRegs_snap (s : State) (v : Regs) : (s.withRegs v).snap = s.snap := rfl
@[simp] theorem State.withRegs_cfgCopy (s : State) (v : Regs) : (s.withRegs v).cfgCopy = s.cfgCopy := rfl
@[simp] theorem State.withRegs_geom (s : State) (v : Regs) : (s.withRegs v).geom = s.geom := rfl
@[simp] theorem State.withRegs_interlace (s : State) (v : Regs) : (s.withRegs v).interlace = s.interlace := rfl
@[simp] theorem State.withRegs_warned (s : State) (v : Regs) : (s.withRegs v).warned = s.warned := rfl
@[simp] theorem State.withRegs_lastIntent (s : State) (v : Regs) : (s.withRegs v).lastIntent = s.lastIntent := rfl
@[simp] theorem State.withRegs_snapreq (s : State) (v : Regs) : (s.withRegs v).snapreq = s.snapreq := rfl
@[simp] theorem State.withRegs_prescale (s : State) (v : Regs) : (s.withRegs v).prescale = s.prescale := rfl
@[simp] theorem State.withRegs_fault (s : State) (v : Regs) : (s.withRegs v).fault = s.fault := rfl
@[simp] theorem State.withRegs_disp (s : State) (v : Regs) : (s.withRegs v).disp = s.disp := rfl
@[simp] theorem State.withRegs_workers (s : State) (v : Regs) : (s.withRegs v).workers = s.workers := rfl
@[simp] theorem State.withRegs_me (s : State) (v : Regs) : (s.withRegs v).me = s.me := rfl
@[simp] theorem State.withRegs_seq (s : State) (v : Regs) : (s.withRegs v).seq = s.seq := rfl
@[simp] theorem State.withRegs_desc (s : State) (v : Regs) : (s.withRegs v).desc = s.desc := rfl
@[simp] theorem State.withRegs_bmp (s : State) (v : Regs) : (s.withRegs v).bmp = s.bmp := rfl
@[simp] theorem State.withRegs_ret (s : State) (v : Regs) : (s.withRegs v).ret = s.ret := rfl
@[simp] theorem State.withRegs_outcome (s : State) (v : Regs) : (s.withRegs v).outcome = s.outcome := rfl
@[simp] theorem State.withRegs_out (s : State) (v : Regs) : (s.withRegs v).out = s.out := rfl
@[simp] theorem State.withRegs_tick (s : State) (v : Regs) : (s.withRegs v).tick = s.tick := rfl
@[simp] theorem State.withMem_regs (s : State) (v : Memory) : (s.withMem v).regs = s.regs := rfl
@[simp] theorem State.withMem_mem (s : State) (v : Memory) : (s.withMem v).mem = v := rfl
@[simp] theorem State.withMem_aux (s : State) (v : Memory) : (s.withMem v).aux = s.aux := rfl
@[simp] theorem State.withMem_memLimit (s : State) (v : Memory) : (s.withMem v).memLimit = s.memLimit := rfl
@[simp] theorem State.withMem_zbOrigin (s : State) (v : Memory) : (s.withMem v).zbOrigin = s.zbOrigin := rfl
@[simp] theorem State.withMem_noise (s : State) (v : Memory) : (s.withMem v).noise = s.noise := rfl
@[simp] theorem State.withMem_host (s : State) (v : Memory) : (s.withMem v).host = s.host := rfl
@[simp] theorem State.withMem_env (s : State) (v : Memory) : (s.withMem v).env = s.env := rfl
@[simp] theorem State.withMem_cfg (s : State) (v : Memory) : (s.withMem v).cfg = s.cfg := rfl
@[simp] theorem State.withMem_phase (s : State) (v : Memory) : (s.withMem v).phase = s.phase := rfl
@[simp] theorem State.withMem_snap (s : State) (v : Memory) : (s.withMem v).snap = s.snap := rfl
@[simp] theorem State.withMem_cfgCopy (s : State) (v : Memory) : (s.withMem v).cfgCopy = s.cfgCopy := rfl
@[simp] theorem State.withMem_geom (s : State) (v : Memory) : (s.withMem v).geom = s.geom := rfl
@[simp] theorem State.withMem_interlace (s : State) (v : Memory) : (s.withMem v).interlace = s.interlace := rfl
@[simp] theorem State.withMem_warned (s : State) (v : Memory) : (s.withMem v).warned = s.warned := rfl
@[simp] theorem State.withMem_lastIntent (s : State) (v : Memory) : (s.withMem v).lastIntent = s.lastIntent := rfl
@[simp] theorem State.withMem_snapreq (s : State) (v : Memory) : (s.withMem v).snapreq = s.snapreq := rfl
@[simp] theorem State.withMem_prescale (s : State) (v : Memory) : (s.withMem v).prescale = s.prescale := rfl
@[simp] theorem State.withMem_fault (s : State) (v : Memory) : (s.withMem v).fault = s.fault := rfl
@[simp] theorem State.withMem_disp (s : State) (v : Memory) : (s.withMem v).disp = s.disp := rfl
@[simp] theorem State.withMem_workers (s : State) (v : Memory) : (s.withMem v).workers = s.workers := rfl
@[simp] theorem State.withMem_me (s : State) (v : Memory) : (s.withMem v).me = s.me := rfl
@[simp] theorem State.withMem_seq (s : State) (v : Memory) : (s.withMem v).seq = s.seq := rfl
@[simp] theorem State.withMem_desc (s : State) (v : Memory) : (s.withMem v).desc = s.desc := rfl
@[simp] theorem State.withMem_bmp (s : State) (v : Memory) : (s.withMem v).bmp = s.bmp := rfl
@[simp] theorem State.withMem_ret (s : State) (v : Memory) : (s.withMem v).ret = s.ret := rfl
@[simp] theorem State.withMem_outcome (s : State) (v : Memory) : (s.withMem v).outcome = s.outcome := rfl
@[simp] theorem State.withMem_out (s : State) (v : Memory) : (s.withMem v).out = s.out := rfl
@[simp] theorem State.withMem_tick (s : State) (v : Memory) : (s.withMem v).tick = s.tick := rfl
@[simp] theorem State.withAux_regs (s : State) (v : Memory) : (s.withAux v).regs = s.regs := rfl
@[simp] theorem State.withAux_mem (s : State) (v : Memory) : (s.withAux v).mem = s.mem := rfl
@[simp] theorem State.withAux_aux (s : State) (v : Memory) : (s.withAux v).aux = v := rfl
@[simp] theorem State.withAux_memLimit (s : State) (v : Memory) : (s.withAux v).memLimit = s.memLimit := rfl
@[simp] theorem State.withAux_zbOrigin (s : State) (v : Memory) : (s.withAux v).zbOrigin = s.zbOrigin := rfl
@[simp] theorem State.withAux_noise (s : State) (v : Memory) : (s.withAux v).noise = s.noise := rfl
@[simp] theorem State.withAux_host (s : State) (v : Memory) : (s.withAux v).host = s.host := rfl
@[simp] theorem State.withAux_env (s : State) (v : Memory) : (s.withAux v).env = s.env := rfl
@[simp] theorem State.withAux_cfg (s : State) (v : Memory) : (s.withAux v).cfg = s.cfg := rfl
@[simp] theorem State.withAux_phase (s : State) (v : Memory) : (s.withAux v).phase = s.phase := rfl
@[simp] theorem State.withAux_snap (s : State) (v : Memory) : (s.withAux v).snap = s.snap := rfl
@[simp] theorem State.withAux_cfgCopy (s : State) (v : Memory) : (s.withAux v).cfgCopy = s.cfgCopy := rfl
@[simp] theorem State.withAux_geom (s : State) (v : Memory) : (s.withAux v).geom = s.geom := rfl
@[simp] theorem State.withAux_interlace (s : State) (v : Memory) : (s.withAux v).interlace = s.interlace := rfl
@[simp] theorem State.withAux_warned (s : State) (v : Memory) : (s.withAux v).warned = s.warned := rfl
@[simp] theorem State.withAux_lastIntent (s : State) (v : Memory) : (s.withAux v).lastIntent = s.lastIntent := rfl
@[simp] theorem State.withAux_snapreq (s : State) (v : Memory) : (s.withAux v).snapreq = s.snapreq := rfl
@[simp] theorem State.withAux_prescale (s : State) (v : Memory) : (s.withAux v).prescale = s.prescale := rfl
@[simp] theorem State.withAux_fault (s : State) (v : Memory) : (s.withAux v).fault = s.fault := rfl
@[simp] theorem State.withAux_disp (s : State) (v : Memory) : (s.withAux v).disp = s.disp := rfl
@[simp] theorem State.withAux_workers (s : State) (v : Memory) : (s.withAux v).workers = s.workers := rfl
@[simp] theorem State.withAux_me (s : State) (v : Memory) : (s.withAux v).me = s.me := rfl
@[simp] theorem State.withAux_seq (s : State) (v : Memory) : (s.withAux v).seq = s.seq := rfl
@[simp] theorem State.withAux_desc (s : State) (v : Memory) : (s.withAux v).desc = s.desc := rfl
@[simp] theorem State.withAux_bmp (s : State) (v : Memory) : (s.withAux v).bmp = s.bmp := rfl
@[simp] theorem State.withAux_ret (s : State) (v : Memory) : (s.withAux v).ret = s.ret := rfl
@[simp] theorem State.withAux_outcome (s : State) (v : Memory) : (s.withAux v).outcome = s.outcome := rfl
@[simp] theorem State.withAux_out (s : State) (v : Memory) : (s.withAux v).out = s.out := rfl
@[simp] theorem State.withAux_tick (s : State) (v : Memory) : (s.withAux v).tick = s.tick := rfl
@[simp] theorem State.withMemLimit_regs (s : State) (v : Nat) : (s.withMemLimit v).regs = s.regs := rfl
@[simp] theorem State.withMemLimit_mem (s : State) (v : Nat) : (s.withMemLimit v).mem = s.mem := rfl
@[simp] theorem State.withMemLimit_aux (s : State) (v : Nat) : (s.withMemLimit v).aux = s.aux := rfl
@[simp] theorem State.withMemLimit_memLimit (s : State) (v : Nat) : (s.withMemLimit v).memLimit = v := rfl
@[simp] theorem State.withMemLimit_zbOrigin (s : State) (v : Nat) : (s.withMemLimit v).zbOrigin = s.zbOrigin := rfl
@[simp] theorem State.withMemLimit_noise (s : State) (v : Nat) : (s.withMemLimit v).noise = s.noise := rfl
@[simp] theorem State.withMemLimit_host (s : State) (v : Nat) : (s.withMemLimit v).host = s.host := rfl
@[simp] theorem State.withMemLimit_env (s : State) (v : Nat) : (s.withMemLimit v).env = s.env := rfl
@[simp] theorem State.withMemLimit_cfg (s : State) (v : Nat) : (s.withMemLimit v).cfg = s.cfg := rfl
@[simp] theorem State.withMemLimit_phase (s : State) (v : Nat) : (s.withMemLimit v).phase = s.phase := rfl
@[simp] theorem State.withMemLimit_snap (s : State) (v : Nat) : (s.withMemLimit v).snap = s.snap := rfl
@[simp] theorem State.withMemLimit_cfgCopy (s : State) (v : Nat) : (s.withMemLimit v).cfgCopy = s.cfgCopy := rfl
@[simp] theorem State.withMemLimit_geom (s : State) (v : Nat) : (s.withMemLimit v).geom = s.geom := rfl
@[simp] theorem State.withMemLimit_interlace (s : State) (v : Nat) : (s.withMemLimit v).interlace = s.interlace := rfl
@[simp] theorem State.withMemLimit_warned (s : State) (v : Nat) : (s.withMemLimit v).warned = s.warned := rfl
@[simp] theorem State.withMemLimit_lastIntent (s : State) (v : Nat) : (s.withMemLimit v).lastIntent = s.lastIntent := rfl
@[simp] theorem State.withMemLimit_snapreq (s : State) (v : Nat) : (s.withMemLimit v).snapreq = s.snapreq := rfl
@[simp] theorem State.withMemLimit_prescale (s : State) (v : Nat) : (s.withMemLimit v).prescale = s.prescale := rfl
@[simp] theorem State.withMemLimit_fault (s : State) (v : Nat) : (s.withMemLimit v).fault = s.fault := rfl
@[simp] theorem State.withMemLimit_disp (s : State) (v : Nat) : (s.withMemLimit v).disp = s.disp := rfl
@[simp] theorem State.withMemLimit_workers (s : State) (v : Nat) : (s.withMemLimit v).workers = s.workers := rfl
@[simp] theorem State.withMemLimit_me (s : State) (v : Nat) : (s.withMemLimit v).me = s.me := rfl
@[simp] theorem State.withMemLimit_seq (s : State) (v : Nat) : (s.withMemLimit v).seq = s.seq := rfl
@[simp] theorem State.withMemLimit_desc (s : State) (v : Nat) : (s.withMemLimit v).desc = s.desc := rfl
@[simp] theorem State.withMemLimit_bmp (s : State) (v : Nat) : (s.withMemLimit v).bmp = s.bmp := rfl
@[simp] theorem State.withMemLimit_ret (s : State) (v : Nat) : (s.withMemLimit v).ret = s.ret := rfl
@[simp] theorem State.withMemLimit_outcome (s : State) (v : Nat) : (s.withMemLimit v).outcome = s.outcome := rfl
@[simp] theorem State.withMemLimit_out (s : State) (v : Nat) : (s.withMemLimit v).out = s.out := rfl
@[simp] theorem State.withMemLimit_tick (s : State) (v : Nat) : (s.withMemLimit v).tick = s.tick := rfl
@[simp] theorem State.withZbOrigin_regs (s : State) (v : BitVec 24) : (s.withZbOrigin v).regs = s.regs := rfl
@[simp] theorem State.withZbOrigin_mem (s : State) (v : BitVec 24) : (s.withZbOrigin v).mem = s.mem := rfl
@[simp] theorem State.withZbOrigin_aux (s : State) (v : BitVec 24) : (s.withZbOrigin v).aux = s.aux := rfl
@[simp] theorem State.withZbOrigin_memLimit (s : State) (v : BitVec 24) : (s.withZbOrigin v).memLimit = s.memLimit := rfl
@[simp] theorem State.withZbOrigin_zbOrigin (s : State) (v : BitVec 24) : (s.withZbOrigin v).zbOrigin = v := rfl
@[simp] theorem State.withZbOrigin_noise (s : State) (v : BitVec 24) : (s.withZbOrigin v).noise = s.noise := rfl
@[simp] theorem State.withZbOrigin_host (s : State) (v : BitVec 24) : (s.withZbOrigin v).host = s.host := rfl
@[simp] theorem State.withZbOrigin_env (s : State) (v : BitVec 24) : (s.withZbOrigin v).env = s.env := rfl
@[simp] theorem State.withZbOrigin_cfg (s : State) (v : BitVec 24) : (s.withZbOrigin v).cfg = s.cfg := rfl
@[simp] theorem State.withZbOrigin_phase (s : State) (v : BitVec 24) : (s.withZbOrigin v).phase = s.phase := rfl
@[simp] theorem State.withZbOrigin_snap (s : State) (v : BitVec 24) : (s.withZbOrigin v).snap = s.snap := rfl
@[simp] theorem State.withZbOrigin_cfgCopy (s : State) (v : BitVec 24) : (s.withZbOrigin v).cfgCopy = s.cfgCopy := rfl
@[simp] theorem State.withZbOrigin_geom (s : State) (v : BitVec 24) : (s.withZbOrigin v).geom = s.geom := rfl
@[simp] theorem State.withZbOrigin_interlace (s : State) (v : BitVec 24) : (s.withZbOrigin v).interlace = s.interlace := rfl
@[simp] theorem State.withZbOrigin_warned (s : State) (v : BitVec 24) : (s.withZbOrigin v).warned = s.warned := rfl
@[simp] theorem State.withZbOrigin_lastIntent (s : State) (v : BitVec 24) : (s.withZbOrigin v).lastIntent = s.lastIntent := rfl
@[simp] theorem State.withZbOrigin_snapreq (s : State) (v : BitVec 24) : (s.withZbOrigin v).snapreq = s.snapreq := rfl
@[simp] theorem State.withZbOrigin_prescale (s : State) (v : BitVec 24) : (s.withZbOrigin v).prescale = s.prescale := rfl
@[simp] theorem State.withZbOrigin_fault (s : State) (v : BitVec 24) : (s.withZbOrigin v).fault = s.fault := rfl
@[simp] theorem State.withZbOrigin_disp (s : State) (v : BitVec 24) : (s.withZbOrigin v).disp = s.disp := rfl
@[simp] theorem State.withZbOrigin_workers (s : State) (v : BitVec 24) : (s.withZbOrigin v).workers = s.workers := rfl
@[simp] theorem State.withZbOrigin_me (s : State) (v : BitVec 24) : (s.withZbOrigin v).me = s.me := rfl
@[simp] theorem State.withZbOrigin_seq (s : State) (v : BitVec 24) : (s.withZbOrigin v).seq = s.seq := rfl
@[simp] theorem State.withZbOrigin_desc (s : State) (v : BitVec 24) : (s.withZbOrigin v).desc = s.desc := rfl
@[simp] theorem State.withZbOrigin_bmp (s : State) (v : BitVec 24) : (s.withZbOrigin v).bmp = s.bmp := rfl
@[simp] theorem State.withZbOrigin_ret (s : State) (v : BitVec 24) : (s.withZbOrigin v).ret = s.ret := rfl
@[simp] theorem State.withZbOrigin_outcome (s : State) (v : BitVec 24) : (s.withZbOrigin v).outcome = s.outcome := rfl
@[simp] theorem State.withZbOrigin_out (s : State) (v : BitVec 24) : (s.withZbOrigin v).out = s.out := rfl
@[simp] theorem State.withZbOrigin_tick (s : State) (v : BitVec 24) : (s.withZbOrigin v).tick = s.tick := rfl
@[simp] theorem State.withNoise_regs (s : State) (v : Option NoiseFn) : (s.withNoise v).regs = s.regs := rfl
@[simp] theorem State.withNoise_mem (s : State) (v : Option NoiseFn) : (s.withNoise v).mem = s.mem := rfl
@[simp] theorem State.withNoise_aux (s : State) (v : Option NoiseFn) : (s.withNoise v).aux = s.aux := rfl
@[simp] theorem State.withNoise_memLimit (s : State) (v : Option NoiseFn) : (s.withNoise v).memLimit = s.memLimit := rfl
@[simp] theorem State.withNoise_zbOrigin (s : State) (v : Option NoiseFn) : (s.withNoise v).zbOrigin = s.zbOrigin := rfl
@[simp] theorem State.withNoise_noise (s : State) (v : Option NoiseFn) : (s.withNoise v).noise = v := rfl
@[simp] theorem State.withNoise_host (s : State) (v : Option NoiseFn) : (s.withNoise v).host = s.host := rfl
@[simp] theorem State.withNoise_env (s : State) (v : Option NoiseFn) : (s.withNoise v).env = s.env := rfl
@[simp] theorem State.withNoise_cfg (s : State) (v : Option NoiseFn) : (s.withNoise v).cfg = s.cfg := rfl
@[simp] theorem State.withNoise_phase (s : State) (v : Option NoiseFn) : (s.withNoise v).phase = s.phase := rfl
@[simp] theorem State.withNoise_snap (s : State) (v : Option NoiseFn) : (s.withNoise v).snap = s.snap := rfl
@[simp] theorem State.withNoise_cfgCopy (s : State) (v : Option NoiseFn) : (s.withNoise v).cfgCopy = s.cfgCopy := rfl
@[simp] theorem State.withNoise_geom (s : State) (v : Option NoiseFn) : (s.withNoise v).geom = s.geom := rfl
@[simp] theorem State.withNoise_interlace (s : State) (v : Option NoiseFn) : (s.withNoise v).interlace = s.interlace := rfl
@[simp] theorem State.withNoise_warned (s : State) (v : Option NoiseFn) : (s.withNoise v).warned = s.warned := rfl
@[simp] theorem State.withNoise_lastIntent (s : State) (v : Option NoiseFn) : (s.withNoise v).lastIntent = s.lastIntent := rfl
@[simp] theorem State.withNoise_snapreq (s : State) (v : Option NoiseFn) : (s.withNoise v).snapreq = s.snapreq := rfl
@[simp] theorem State.withNoise_prescale (s : State) (v : Option NoiseFn) : (s.withNoise v).prescale = s.prescale := rfl
@[simp] theorem State.withNoise_fault (s : State) (v : Option NoiseFn) : (s.withNoise v).fault = s.fault := rfl
@[simp] theorem State.withNoise_disp (s : State) (v : Option NoiseFn) : (s.withNoise v).disp = s.disp := rfl
@[simp] theorem State.withNoise_workers (s : State) (v : Option NoiseFn) : (s.withNoise v).workers = s.workers := rfl
@[simp] theorem State.withNoise_me (s : State) (v : Option NoiseFn) : (s.withNoise v).me = s.me := rfl
@[simp] theorem State.withNoise_seq (s : State) (v : Option NoiseFn) : (s.withNoise v).seq = s.seq := rfl
@[simp] theorem State.withNoise_desc (s : State) (v : Option NoiseFn) : (s.withNoise v).desc = s.desc := rfl
@[simp] theorem State.withNoise_bmp (s : State) (v : Option NoiseFn) : (s.withNoise v).bmp = s.bmp := rfl
@[simp] theorem State.withNoise_ret (s : State) (v : Option NoiseFn) : (s.withNoise v).ret = s.ret := rfl
@[simp] theorem State.withNoise_outcome (s : State) (v : Option NoiseFn) : (s.withNoise v).outcome = s.outcome := rfl
@[simp] theorem State.withNoise_out (s : State) (v : Option NoiseFn) : (s.withNoise v).out = s.out := rfl
@[simp] theorem State.withNoise_tick (s : State) (v : Option NoiseFn) : (s.withNoise v).tick = s.tick := rfl
@[simp] theorem State.withHost_regs (s : State) (v : List HostAction) : (s.withHost v).regs = s.regs := rfl
@[simp] theorem State.withHost_mem (s : State) (v : List HostAction) : (s.withHost v).mem = s.mem := rfl
@[simp] theorem State.withHost_aux (s : State) (v : List HostAction) : (s.withHost v).aux = s.aux := rfl
@[simp] theorem State.withHost_memLimit (s : State) (v : List HostAction) : (s.withHost v).memLimit = s.memLimit := rfl
@[simp] theorem State.withHost_zbOrigin (s : State) (v : List HostAction) : (s.withHost v).zbOrigin = s.zbOrigin := rfl
@[simp] theorem State.withHost_noise (s : State) (v : List HostAction) : (s.withHost v).noise = s.noise := rfl
@[simp] theorem State.withHost_host (s : State) (v : List HostAction) : (s.withHost v).host = v := rfl
@[simp] theorem State.withHost_env (s : State) (v : List HostAction) : (s.withHost v).env = s.env := rfl
@[simp] theorem State.withHost_cfg (s : State) (v : List HostAction) : (s.withHost v).cfg = s.cfg := rfl
@[simp] theorem State.withHost_phase (s : State) (v : List HostAction) : (s.withHost v).phase = s.phase := rfl
@[simp] theorem State.withHost_snap (s : State) (v : List HostAction) : (s.withHost v).snap = s.snap := rfl
@[simp] theorem State.withHost_cfgCopy (s : State) (v : List HostAction) : (s.withHost v).cfgCopy = s.cfgCopy := rfl
@[simp] theorem State.withHost_geom (s : State) (v : List HostAction) : (s.withHost v).geom = s.geom := rfl
@[simp] theorem State.withHost_interlace (s : State) (v : List HostAction) : (s.withHost v).interlace = s.interlace := rfl
@[simp] theorem State.withHost_warned (s : State) (v : List HostAction) : (s.withHost v).warned = s.warned := rfl
@[simp] theorem State.withHost_lastIntent (s : State) (v : List HostAction) : (s.withHost v).lastIntent = s.lastIntent := rfl
@[simp] theorem State.withHost_snapreq (s : State) (v : List HostAction) : (s.withHost v).snapreq = s.snapreq := rfl
@[simp] theorem State.withHost_prescale (s : State) (v : List HostAction) : (s.withHost v).prescale = s.prescale := rfl
@[simp] theorem State.withHost_fault (s : State) (v : List HostAction) : (s.withHost v).fault = s.fault := rfl
@[simp] theorem State.withHost_disp (s : State) (v : List HostAction) : (s.withHost v).disp = s.disp := rfl
@[simp] theorem State.withHost_workers (s : State) (v : List HostAction) : (s.withHost v).workers = s.workers := rfl
@[simp] theorem State.withHost_me (s : State) (v : List HostAction) : (s.withHost v).me = s.me := rfl
@[simp] theorem State.withHost_seq (s : State) (v : List HostAction) : (s.withHost v).seq = s.seq := rfl
@[simp] theorem State.withHost_desc (s : State) (v : List HostAction) : (s.withHost v).desc = s.desc := rfl
@[simp] theorem State.withHost_bmp (s : State) (v : List HostAction) : (s.withHost v).bmp = s.bmp := rfl
@[simp] theorem State.withHost_ret (s : State) (v : List HostAction) : (s.withHost v).ret = s.ret := rfl
@[simp] theorem State.withHost_outcome (s : State) (v : List HostAction) : (s.withHost v).outcome = s.outcome := rfl
@[simp] theorem State.withHost_out (s : State) (v : List HostAction) : (s.withHost v).out = s.out := rfl
@[simp] theorem State.withHost_tick (s : State) (v : List HostAction) : (s.withHost v).tick = s.tick := rfl
@[simp] theorem State.withEnv_regs (s : State) (v : List EnvEvent) : (s.withEnv v).regs = s.regs := rfl
@[simp] theorem State.withEnv_mem (s : State) (v : List EnvEvent) : (s.withEnv v).mem = s.mem := rfl
@[simp] theorem State.withEnv_aux (s : State) (v : List EnvEvent) : (s.withEnv v).aux = s.aux := rfl
@[simp] theorem State.withEnv_memLimit (s : State) (v : List EnvEvent) : (s.withEnv v).memLimit = s.memLimit := rfl
@[simp] theorem State.withEnv_zbOrigin (s : State) (v : List EnvEvent) : (s.withEnv v).zbOrigin = s.zbOrigin := rfl
@[simp] theorem State.withEnv_noise (s : State) (v : List EnvEvent) : (s.withEnv v).noise = s.noise := rfl
@[simp] theorem State.withEnv_host (s : State) (v : List EnvEvent) : (s.withEnv v).host = s.host := rfl
@[simp] theorem State.withEnv_env (s : State) (v : List EnvEvent) : (s.withEnv v).env = v := rfl
@[simp] theorem State.withEnv_cfg (s : State) (v : List EnvEvent) : (s.withEnv v).cfg = s.cfg := rfl
@[simp] theorem State.withEnv_phase (s : State) (v : List EnvEvent) : (s.withEnv v).phase = s.phase := rfl
@[simp] theorem State.withEnv_snap (s : State) (v : List EnvEvent) : (s.withEnv v).snap = s.snap := rfl
@[simp] theorem State.withEnv_cfgCopy (s : State) (v : List EnvEvent) : (s.withEnv v).cfgCopy = s.cfgCopy := rfl
@[simp] theorem State.withEnv_geom (s : State) (v : List EnvEvent) : (s.withEnv v).geom = s.geom := rfl
@[simp] theorem State.withEnv_interlace (s : State) (v : List EnvEvent) : (s.withEnv v).interlace = s.interlace := rfl
@[simp] theorem State.withEnv_warned (s : State) (v : List EnvEvent) : (s.withEnv v).warned = s.warned := rfl
@[simp] theorem State.withEnv_lastIntent (s : State) (v : List EnvEvent) : (s.withEnv v).lastIntent = s.lastIntent := rfl
@[simp] theorem State.withEnv_snapreq (s : State) (v : List EnvEvent) : (s.withEnv v).snapreq = s.snapreq := rfl
@[simp] theorem State.withEnv_prescale (s : State) (v : List EnvEvent) : (s.withEnv v).prescale = s.prescale := rfl
@[simp] theorem State.withEnv_fault (s : State) (v : List EnvEvent) : (s.withEnv v).fault = s.fault := rfl
@[simp] theorem State.withEnv_disp (s : State) (v : List EnvEvent) : (s.withEnv v).disp = s.disp := rfl
@[simp] theorem State.withEnv_workers (s : State) (v : List EnvEvent) : (s.withEnv v).workers = s.workers := rfl
@[simp] theorem State.withEnv_me (s : State) (v : List EnvEvent) : (s.withEnv v).me = s.me := rfl
@[simp] theorem State.withEnv_seq (s : State) (v : List EnvEvent) : (s.withEnv v).seq = s.seq := rfl
@[simp] theorem State.withEnv_desc (s : State) (v : List EnvEvent) : (s.withEnv v).desc = s.desc := rfl
@[simp] theorem State.withEnv_bmp (s : State) (v : List EnvEvent) : (s.withEnv v).bmp = s.bmp := rfl
@[simp] theorem State.withEnv_ret (s : State) (v : List EnvEvent) : (s.withEnv v).ret = s.ret := rfl
@[simp] theorem State.withEnv_outcome (s : State) (v : List EnvEvent) : (s.withEnv v).outcome = s.outcome := rfl
@[simp] theorem State.withEnv_out (s : State) (v : List EnvEvent) : (s.withEnv v).out = s.out := rfl
@[simp] theorem State.withEnv_tick (s : State) (v : List EnvEvent) : (s.withEnv v).tick = s.tick := rfl
@[simp] theorem State.withCfg_regs (s : State) (v : Cfg) : (s.withCfg v).regs = s.regs := rfl
@[simp] theorem State.withCfg_mem (s : State) (v : Cfg) : (s.withCfg v).mem = s.mem := rfl
@[simp] theorem State.withCfg_aux (s : State) (v : Cfg) : (s.withCfg v).aux = s.aux := rfl
@[simp] theorem State.withCfg_memLimit (s : State) (v : Cfg) : (s.withCfg v).memLimit = s.memLimit := rfl
@[simp] theorem State.withCfg_zbOrigin (s : State) (v : Cfg) : (s.withCfg v).zbOrigin = s.zbOrigin := rfl
@[simp] theorem State.withCfg_noise (s : State) (v : Cfg) : (s.withCfg v).noise = s.noise := rfl
@[simp] theorem State.withCfg_host (s : State) (v : Cfg) : (s.withCfg v).host = s.host := rfl
@[simp] theorem State.withCfg_env (s : State) (v : Cfg) : (s.withCfg v).env = s.env := rfl
@[simp] theorem State.withCfg_cfg (s : State) (v : Cfg) : (s.withCfg v).cfg = v := rfl
@[simp] theorem State.withCfg_phase (s : State) (v : Cfg) : (s.withCfg v).phase = s.phase := rfl
@[simp] theorem State.withCfg_snap (s : State) (v : Cfg) : (s.withCfg v).snap = s.snap := rfl
@[simp] theorem State.withCfg_cfgCopy (s : State) (v : Cfg) : (s.withCfg v).cfgCopy = s.cfgCopy := rfl
@[simp] theorem State.withCfg_geom (s : State) (v : Cfg) : (s.withCfg v).geom = s.geom := rfl
@[simp] theorem State.withCfg_interlace (s : State) (v : Cfg) : (s.withCfg v).interlace = s.interlace := rfl
@[simp] theorem State.withCfg_warned (s : State) (v : Cfg) : (s.withCfg v).warned = s.warned := rfl
@[simp] theorem State.withCfg_lastIntent (s : State) (v : Cfg) : (s.withCfg v).lastIntent = s.lastIntent := rfl
@[simp] theorem State.withCfg_snapreq (s : State) (v : Cfg) : (s.withCfg v).snapreq = s.snapreq := rfl
@[simp] theorem State.withCfg_prescale (s : State) (v : Cfg) : (s.withCfg v).prescale = s.prescale := rfl
@[simp] theorem State.withCfg_fault (s : State) (v : Cfg) : (s.withCfg v).fault = s.fault := rfl
@[simp] theorem State.withCfg_disp (s : State) (v : Cfg) : (s.withCfg v).disp = s.disp := rfl
@[simp] theorem State.withCfg_workers (s : State) (v : Cfg) : (s.withCfg v).workers = s.workers := rfl
@[simp] theorem State.withCfg_me (s : State) (v : Cfg) : (s.withCfg v).me = s.me := rfl
@[simp] theorem State.withCfg_seq (s : State) (v : Cfg) : (s.withCfg v).seq = s.seq := rfl
@[simp] theorem State.withCfg_desc (s : State) (v : Cfg) : (s.withCfg v).desc = s.desc := rfl
@[simp] theorem State.withCfg_bmp (s : State) (v : Cfg) : (s.withCfg v).bmp = s.bmp := rfl
@[simp] theorem State.withCfg_ret (s : State) (v : Cfg) : (s.withCfg v).ret = s.ret := rfl
@[simp] theorem State.withCfg_outcome (s : State) (v : Cfg) : (s.withCfg v).outcome = s.outcome := rfl
@[simp] theorem State.withCfg_out (s : State) (v : Cfg) : (s.withCfg v).out = s.out := rfl
@[simp] theorem State.withCfg_tick (s : State) (v : Cfg) : (s.withCfg v).tick = s.tick := rfl
@[simp] theorem State.withPhase_regs (s : State) (v : Phase) : (s.withPhase v).regs = s.regs := rfl
@[simp] theorem State.withPhase_mem (s : State) (v : Phase) : (s.withPhase v).mem = s.mem := rfl
@[simp] theorem State.withPhase_aux (s : State) (v : Phase) : (s.withPhase v).aux = s.aux := rfl
@[simp] theorem State.withPhase_memLimit (s : State) (v : Phase) : (s.withPhase v).memLimit = s.memLimit := rfl
@[simp] theorem State.withPhase_zbOrigin (s : State) (v : Phase) : (s.withPhase v).zbOrigin = s.zbOrigin := rfl
@[simp] theorem State.withPhase_noise (s : State) (v : Phase) : (s.withPhase v).noise = s.noise := rfl
@[simp] theorem State.withPhase_host (s : State) (v : Phase) : (s.withPhase v).host = s.host := rfl
@[simp] theorem State.withPhase_env (s : State) (v : Phase) : (s.withPhase v).env = s.env := rfl
@[simp] theorem State.withPhase_cfg (s : State) (v : Phase) : (s.withPhase v).cfg = s.cfg := rfl
@[simp] theorem State.withPhase_phase (s : State) (v : Phase) : (s.withPhase v).phase = v := rfl
@[simp] theorem State.withPhase_snap (s : State) (v : Phase) : (s.withPhase v).snap = s.snap := rfl
@[simp] theorem State.withPhase_cfgCopy (s : State) (v : Phase) : (s.withPhase v).cfgCopy = s.cfgCopy := rfl
@[simp] theorem State.withPhase_geom (s : State) (v : Phase) : (s.withPhase v).geom = s.geom := rfl
@[simp] theorem State.withPhase_interlace (s : State) (v : Phase) : (s.withPhase v).interlace = s.interlace := rfl
@[simp] theorem State.withPhase_warned (s : State) (v : Phase) : (s.withPhase v).warned = s.warned := rfl
@[simp] theorem State.withPhase_lastIntent (s : State) (v : Phase) : (s.withPhase v).lastIntent = s.lastIntent := rfl
@[simp] theorem State.withPhase_snapreq (s : State) (v : Phase) : (s.withPhase v).snapreq = s.snapreq := rfl
@[simp] theorem State.withPhase_prescale (s : State) (v : Phase) : (s.withPhase v).prescale = s.prescale := rfl
@[simp] theorem State.withPhase_fault (s : State) (v : Phase) : (s.withPhase v).fault = s.fault := rfl
@[simp] theorem State.withPhase_disp (s : State) (v : Phase) : (s.withPhase v).disp = s.disp := rfl
@[simp] theorem State.withPhase_workers (s : State) (v : Phase) : (s.withPhase v).workers = s.workers := rfl
@[simp] theorem State.withPhase_me (s : State) (v : Phase) : (s.withPhase v).me = s.me := rfl
@[simp] theorem State.withPhase_seq (s : State) (v : Phase) : (s.withPhase v).seq = s.seq := rfl
@[simp] theorem State.withPhase_desc (s : State) (v : Phase) : (s.withPhase v).desc = s.desc := rfl
@[simp] theorem State.withPhase_bmp (s : State) (v : Phase) : (s.withPhase v).bmp = s.bmp := rfl
@[simp] theorem State.withPhase_ret (s : State) (v : Phase) : (s.withPhase v).ret = s.ret := rfl
@[simp] theorem State.withPhase_outcome (s : State) (v : Phase) : (s.withPhase v).outcome = s.outcome := rfl
@[simp] theorem State.withPhase_out (s : State) (v : Phase) : (s.withPhase v).out = s.out := rfl
@[simp] theorem State.withPhase_tick (s : State) (v : Phase) : (s.withPhase v).tick = s.tick := rfl
@[simp] theorem State.withSnap_regs (s : State) (v : Regs) : (s.withSnap v).regs = s.regs := rfl
@[simp] theorem State.withSnap_mem (s : State) (v : Regs) : (s.withSnap v).mem = s.mem := rfl
@[simp] theorem State.withSnap_aux (s : State) (v : Regs) : (s.withSnap v).aux = s.aux := rfl
@[simp] theorem State.withSnap_memLimit (s : State) (v : Regs) : (s.withSnap v).memLimit = s.memLimit := rfl
@[simp] theorem State.withSnap_zbOrigin (s : State) (v : Regs) : (s.withSnap v).zbOrigin = s.zbOrigin := rfl
@[simp] theorem State.withSnap_noise (s : State) (v : Regs) : (s.withSnap v).noise = s.noise := rfl
@[simp] theorem State.withSnap_host (s : State) (v : Regs) : (s.withSnap v).host = s.host := rfl
@[simp] theorem State.withSnap_env (s : State) (v : Regs) : (s.withSnap v).env = s.env := rfl
@[simp] theorem State.withSnap_cfg (s : State) (v : Regs) : (s.withSnap v).cfg = s.cfg := rfl
@[simp] theorem State.withSnap_phase (s : State) (v : Regs) : (s.withSnap v).phase = s.phase := rfl
@[simp] theorem State.withSnap_snap (s : State) (v : Regs) : (s.withSnap v).snap = v := rfl
@[simp] theorem State.withSnap_cfgCopy (s : State) (v : Regs) : (s.withSnap v).cfgCopy = s.cfgCopy := rfl
@[simp] theorem State.withSnap_geom (s : State) (v : Regs) : (s.withSnap v).geom = s.geom := rfl
@[simp] theorem State.withSnap_interlace (s : State) (v : Regs) : (s.withSnap v).interlace = s.interlace := rfl
@[simp] theorem State.withSnap_warned (s : State) (v : Regs) : (s.withSnap v).warned = s.warned := rfl
@[simp] theorem State.withSnap_lastIntent (s : State) (v : Regs) : (s.withSnap v).lastIntent = s.lastIntent := rfl
@[simp] theorem State.withSnap_snapreq (s : State) (v : Regs) : (s.withSnap v).snapreq = s.snapreq := rfl
@[simp] theorem State.withSnap_prescale (s : State) (v : Regs) : (s.withSnap v).prescale = s.prescale := rfl
@[simp] theorem State.withSnap_fault (s : State) (v : Regs) : (s.withSnap v).fault = s.fault := rfl
@[simp] theorem State.withSnap_disp (s : State) (v : Regs) : (s.withSnap v).disp = s.disp := rfl
@[simp] theorem State.withSnap_workers (s : State) (v : Regs) : (s.withSnap v).workers = s.workers := rfl
@[simp] theorem State.withSnap_me (s : State) (v : Regs) : (s.withSnap v).me = s.me := rfl
@[simp] theorem State.withSnap_seq (s : State) (v : Regs) : (s.withSnap v).seq = s.seq := rfl
@[simp] theorem State.withSnap_desc (s : State) (v : Regs) : (s.withSnap v).desc = s.desc := rfl
@[simp] theorem State.withSnap_bmp (s : State) (v : Regs) : (s.withSnap v).bmp = s.bmp := rfl
@[simp] theorem State.withSnap_ret (s : State) (v : Regs) : (s.withSnap v).ret = s.ret := rfl
@[simp] theorem State.withSnap_outcome (s : State) (v : Regs) : (s.withSnap v).outcome = s.outcome := rfl
@[simp] theorem State.withSnap_out (s : State) (v : Regs) : (s.withSnap v).out = s.out := rfl
@[simp] theorem State.withSnap_tick (s : State) (v : Regs) : (s.withSnap v).tick = s.tick := rfl
@[simp] theorem State.withCfgCopy_regs (s : State) (v : Cfg) : (s.withCfgCopy v).regs = s.regs := rfl
@[simp] theorem State.withCfgCopy_mem (s : State) (v : Cfg) : (s.withCfgCopy v).mem = s.mem := rfl
@[simp] theorem State.withCfgCopy_aux (s : State) (v : Cfg) : (s.withCfgCopy v).aux = s.aux := rfl
@[simp] theorem State.withCfgCopy_memLimit (s : State) (v : Cfg) : (s.withCfgCopy v).memLimit = s.memLimit := rfl
@[simp] theorem State.withCfgCopy_zbOrigin (s : State) (v : Cfg) : (s.withCfgCopy v).zbOrigin = s.zbOrigin := rfl
@[simp] theorem State.withCfgCopy_noise (s : State) (v : Cfg) : (s.withCfgCopy v).noise = s.noise := rfl
@[simp] theorem State.withCfgCopy_host (s : State) (v : Cfg) : (s.withCfgCopy v).host = s.host := rfl
@[simp] theorem State.withCfgCopy_env (s : State) (v : Cfg) : (s.withCfgCopy v).env = s.env := rfl
@[simp] theorem State.withCfgCopy_cfg (s : State) (v : Cfg) : (s.withCfgCopy v).cfg = s.cfg := rfl
@[simp] theorem State.withCfgCopy_phase (s : State) (v : Cfg) : (s.withCfgCopy v).phase = s.phase := rfl
@[simp] theorem State.withCfgCopy_snap (s : State) (v : Cfg) : (s.withCfgCopy v).snap = s.snap := rfl
@[simp] theorem State.withCfgCopy_cfgCopy (s : State) (v : Cfg) : (s.withCfgCopy v).cfgCopy = v := rfl
@[simp] theorem State.withCfgCopy_geom (s : State) (v : Cfg) : (s.withCfgCopy v).geom = s.geom := rfl
@[simp] theorem State.withCfgCopy_interlace (s : State) (v : Cfg) : (s.withCfgCopy v).interlace = s.interlace := rfl
@[simp] theorem State.withCfgCopy_warned (s : State) (v : Cfg) : (s.withCfgCopy v).warned = s.warned := rfl
@[simp] theorem State.withCfgCopy_lastIntent (s : State) (v : Cfg) : (s.withCfgCopy v).lastIntent = s.lastIntent := rfl
@[simp] theorem State.withCfgCopy_snapreq (s : State) (v : Cfg) : (s.withCfgCopy v).snapreq = s.snapreq := rfl
@[simp] theorem State.withCfgCopy_prescale (s : State) (v : Cfg) : (s.withCfgCopy v).prescale = s.prescale := rfl
@[simp] theorem State.withCfgCopy_fault (s : State) (v : Cfg) : (s.withCfgCopy v).fault = s.fault := rfl
@[simp] theorem State.withCfgCopy_disp (s : State) (v : Cfg) : (s.withCfgCopy v).disp = s.disp := rfl
@[simp] theorem State.withCfgCopy_workers (s : State) (v : Cfg) : (s.withCfgCopy v).workers = s.workers := rfl
@[simp] theorem State.withCfgCopy_me (s : State) (v : Cfg) : (s.withCfgCopy v).me = s.me := rfl
@[simp] theorem State.withCfgCopy_seq (s : State) (v : Cfg) : (s.withCfgCopy v).seq = s.seq := rfl
@[simp] theorem State.withCfgCopy_desc (s : State) (v : Cfg) : (s.withCfgCopy v).desc = s.desc := rfl
@[simp] theorem State.withCfgCopy_bmp (s : State) (v : Cfg) : (s.withCfgCopy v).bmp = s.bmp := rfl
@[simp] theorem State.withCfgCopy_ret (s : State) (v : Cfg) : (s.withCfgCopy v).ret = s.ret := rfl
@[simp] theorem State.withCfgCopy_outcome (s : State) (v : Cfg) : (s.withCfgCopy v).outcome = s.outcome := rfl
@[simp] theorem State.withCfgCopy_out (s : State) (v : Cfg) : (s.withCfgCopy v).out = s.out := rfl
@[simp] theorem State.withCfgCopy_tick (s : State) (v : Cfg) : (s.withCfgCopy v).tick = s.tick := rfl
@[simp] theorem State.withGeom_regs (s : State) (v : Geometry) : (s.withGeom v).regs = s.regs := rfl
@[simp] theorem State.withGeom_mem (s : State) (v : Geometry) : (s.withGeom v).mem = s.mem := rfl
@[simp] theorem State.withGeom_aux (s : State) (v : Geometry) : (s.withGeom v).aux = s.aux := rfl
@[simp] theorem State.withGeom_memLimit (s : State) (v : Geometry) : (s.withGeom v).memLimit = s.memLimit := rfl
@[simp] theorem State.withGeom_zbOrigin (s : State) (v : Geometry) : (s.withGeom v).zbOrigin = s.zbOrigin := rfl
@[simp] theorem State.withGeom_noise (s : State) (v : Geometry) : (s.withGeom v).noise = s.noise := rfl
@[simp] theorem State.withGeom_host (s : State) (v : Geometry) : (s.withGeom v).host = s.host := rfl
@[simp] theorem State.withGeom_env (s : State) (v : Geometry) : (s.withGeom v).env = s.env := rfl
@[simp] theorem State.withGeom_cfg (s : State) (v : Geometry) : (s.withGeom v).cfg = s.cfg := rfl
@[simp] theorem State.withGeom_phase (s : State) (v : Geometry) : (s.withGeom v).phase = s.phase := rfl
@[simp] theorem State.withGeom_snap (s : State) (v : Geometry) : (s.withGeom v).snap = s.snap := rfl
@[simp] theorem State.withGeom_cfgCopy (s : State) (v : Geometry) : (s.withGeom v).cfgCopy = s.cfgCopy := rfl
@[simp] theorem State.withGeom_geom (s : State) (v : Geometry) : (s.withGeom v).geom = v := rfl
@[simp] theorem State.withGeom_interlace (s : State) (v : Geometry) : (s.withGeom v).interlace = s.interlace := rfl
@[simp] theorem State.withGeom_warned (s : State) (v : Geometry) : (s.withGeom v).warned = s.warned := rfl
@[simp] theorem State.withGeom_lastIntent (s : State) (v : Geometry) : (s.withGeom v).lastIntent = s.lastIntent := rfl
@[simp] theorem State.withGeom_snapreq (s : State) (v : Geometry) : (s.withGeom v).snapreq = s.snapreq := rfl
@[simp] theorem State.withGeom_prescale (s : State) (v : Geometry) : (s.withGeom v).prescale = s.prescale := rfl
@[simp] theorem State.withGeom_fault (s : State) (v : Geometry) : (s.withGeom v).fault = s.fault := rfl
@[simp] theorem State.withGeom_disp (s : State) (v : Geometry) : (s.withGeom v).disp = s.disp := rfl
@[simp] theorem State.withGeom_workers (s : State) (v : Geometry) : (s.withGeom v).workers = s.workers := rfl
@[simp] theorem State.withGeom_me (s : State) (v : Geometry) : (s.withGeom v).me = s.me := rfl
@[simp] theorem State.withGeom_seq (s : State) (v : Geometry) : (s.withGeom v).seq = s.seq := rfl
@[simp] theorem State.withGeom_desc (s : State) (v : Geometry) : (s.withGeom v).desc = s.desc := rfl
@[simp] theorem State.withGeom_bmp (s : State) (v : Geometry) : (s.withGeom v).bmp = s.bmp := rfl
@[simp] theorem State.withGeom_ret (s : State) (v : Geometry) : (s.withGeom v).ret = s.ret := rfl
@[simp] theorem State.withGeom_outcome (s : State) (v : Geometry) : (s.withGeom v).outcome = s.outcome := rfl
@[simp] theorem State.withGeom_out (s : State) (v : Geometry) : (s.withGeom v).out = s.out := rfl
@[simp] theorem State.withGeom_tick (s : State) (v : Geometry) : (s.withGeom v).tick = s.tick := rfl
@[simp] theorem State.withInterlace_regs (s : State) (v : Interlace) : (s.withInterlace v).regs = s.regs := rfl
@[simp] theorem State.withInterlace_mem (s : State) (v : Interlace) : (s.withInterlace v).mem = s.mem := rfl
@[simp] theorem State.withInterlace_aux (s : State) (v : Interlace) : (s.withInterlace v).aux = s.aux := rfl
@[simp] theorem State.withInterlace_memLimit (s : State) (v : Interlace) : (s.withInterlace v).memLimit = s.memLimit := rfl
@[simp] theorem State.withInterlace_zbOrigin (s : State) (v : Interlace) : (s.withInterlace v).zbOrigin = s.zbOrigin := rfl
@[simp] theorem State.withInterlace_noise (s : State) (v : Interlace) : (s.withInterlace v).noise = s.noise := rfl
@[simp] theorem State.withInterlace_host (s : State) (v : Interlace) : (s.withInterlace v).host = s.host := rfl
@[simp] theorem State.withInterlace_env (s : State) (v : Interlace) : (s.withInterlace v).env = s.env := rfl
@[simp] theorem State.withInterlace_cfg (s : State) (v : Interlace) : (s.withInterlace v).cfg = s.cfg := rfl
@[simp] theorem State.withInterlace_phase (s : State) (v : Interlace) : (s.withInterlace v).phase = s.phase := rfl
@[simp] theorem State.withInterlace_snap (s : State) (v : Interlace) : (s.withInterlace v).snap = s.snap := rfl
@[simp] theorem State.withInterlace_cfgCopy (s : State) (v : Interlace) : (s.withInterlace v).cfgCopy = s.cfgCopy := rfl
@[simp] theorem State.withInterlace_geom (s : State) (v : Interlace) : (s.withInterlace v).geom = s.geom := rfl
@[simp] theorem State.withInterlace_interlace (s : State) (v : Interlace) : (s.withInterlace v).interlace = v := rfl
@[simp] theorem State.withInterlace_warned (s : State) (v : Interlace) : (s.withInterlace v).warned = s.warned := rfl
@[simp] theorem State.withInterlace_lastIntent (s : State) (v : Interlace) : (s.withInterlace v).lastIntent = s.lastIntent := rfl
@[simp] theorem State.withInterlace_snapreq (s : State) (v : Interlace) : (s.withInterlace v).snapreq = s.snapreq := rfl
@[simp] theorem State.withInterlace_prescale (s : State) (v : Interlace) : (s.withInterlace v).prescale = s.prescale := rfl
@[simp] theorem State.withInterlace_fault (s : State) (v : Interlace) : (s.withInterlace v).fault = s.fault := rfl
@[simp] theorem State.withInterlace_disp (s : State) (v : Interlace) : (s.withInterlace v).disp = s.disp := rfl
@[simp] theorem State.withInterlace_workers (s : State) (v : Interlace) : (s.withInterlace v).workers = s.workers := rfl
@[simp] theorem State.withInterlace_me (s : State) (v : Interlace) : (s.withInterlace v).me = s.me := rfl
@[simp] theorem State.withInterlace_seq (s : State) (v : Interlace) : (s.withInterlace v).seq = s.seq := rfl
@[simp] theorem State.withInterlace_desc (s : State) (v : Interlace) : (s.withInterlace v).desc = s.desc := rfl
@[simp] theorem State.withInterlace_bmp (s : State) (v : Interlace) : (s.withInterlace v).bmp = s.bmp := rfl
@[simp] theorem State.withInterlace_ret (s : State) (v : Interlace) : (s.withInterlace v).ret = s.ret := rfl
@[simp] theorem State.withInterlace_outcome (s : State) (v : Interlace) : (s.withInterlace v).outcome = s.outcome := rfl
@[simp] theorem State.withInterlace_out (s : State) (v : Interlace) : (s.withInterlace v).out = s.out := rfl
@[simp] theorem State.withInterlace_tick (s : State) (v : Interlace) : (s.withInterlace v).tick = s.tick := rfl
@[simp] theorem State.withWarned_regs (s : State) (v : Warned) : (s.withWarned v).regs = s.regs := rfl
@[simp] theorem State.withWarned_mem (s : State) (v : Warned) : (s.withWarned v).mem = s.mem := rfl
@[simp] theorem State.withWarned_aux (s : State) (v : Warned) : (s.withWarned v).aux = s.aux := rfl
@[simp] theorem State.withWarned_memLimit (s : State) (v : Warned) : (s.withWarned v).memLimit = s.memLimit := rfl
@[simp] theorem State.withWarned_zbOrigin (s : State) (v : Warned) : (s.withWarned v).zbOrigin = s.zbOrigin := rfl
@[simp] theorem State.withWarned_noise (s : State) (v : Warned) : (s.withWarned v).noise = s.noise := rfl
@[simp] theorem State.withWarned_host (s : State) (v : Warned) : (s.withWarned v).host = s.host := rfl
@[simp] theorem State.withWarned_env (s : State) (v : Warned) : (s.withWarned v).env = s.env := rfl
@[simp] theorem State.withWarned_cfg (s : State) (v : Warned) : (s.withWarned v).cfg = s.cfg := rfl
@[simp] theorem State.withWarned_phase (s : State) (v : Warned) : (s.withWarned v).phase = s.phase := rfl
@[simp] theorem State.withWarned_snap (s : State) (v : Warned) : (s.withWarned v).snap = s.snap := rfl
@[simp] theorem State.withWarned_cfgCopy (s : State) (v : Warned) : (s.withWarned v).cfgCopy = s.cfgCopy := rfl
@[simp] theorem State.withWarned_geom (s : State) (v : Warned) : (s.withWarned v).geom = s.geom := rfl
@[simp] theorem State.withWarned_interlace (s : State) (v : Warned) : (s.withWarned v).interlace = s.interlace := rfl
@[simp] theorem State.withWarned_warned (s : State) (v : Warned) : (s.withWarned v).warned = v := rfl
@[simp] theorem State.withWarned_lastIntent (s : State) (v : Warned) : (s.withWarned v).lastIntent = s.lastIntent := rfl
@[simp] theorem State.withWarned_snapreq (s : State) (v : Warned) : (s.withWarned v).snapreq = s.snapreq := rfl
@[simp] theorem State.withWarned_prescale (s : State) (v : Warned) : (s.withWarned v).prescale = s.prescale := rfl
@[simp] theorem State.withWarned_fault (s : State) (v : Warned) : (s.withWarned v).fault = s.fault := rfl
@[simp] theorem State.withWarned_disp (s : State) (v : Warned) : (s.withWarned v).disp = s.disp := rfl
@[simp] theorem State.withWarned_workers (s : State) (v : Warned) : (s.withWarned v).workers = s.workers := rfl
@[simp] theorem State.withWarned_me (s : State) (v : Warned) : (s.withWarned v).me = s.me := rfl
@[simp] theorem State.withWarned_seq (s : State) (v : Warned) : (s.withWarned v).seq = s.seq := rfl
@[simp] theorem State.withWarned_desc (s : State) (v : Warned) : (s.withWarned v).desc = s.desc := rfl
@[simp] theorem State.withWarned_bmp (s : State) (v : Warned) : (s.withWarned v).bmp = s.bmp := rfl
@[simp] theorem State.withWarned_ret (s : State) (v : Warned) : (s.withWarned v).ret = s.ret := rfl
@[simp] theorem State.withWarned_outcome (s : State) (v : Warned) : (s.withWarned v).outcome = s.outcome := rfl
@[simp] theorem State.withWarned_out (s : State) (v : Warned) : (s.withWarned v).out = s.out := rfl
@[simp] theorem State.withWarned_tick (s : State) (v : Warned) : (s.withWarned v).tick = s.tick := rfl
@[simp] theorem State.withLastIntent_regs (s : State) (v : Intent) : (s.withLastIntent v).regs = s.regs := rfl
@[simp] theorem State.withLastIntent_mem (s : State) (v : Intent) : (s.withLastIntent v).mem = s.mem := rfl
@[simp] theorem State.withLastIntent_aux (s : State) (v : Intent) : (s.withLastIntent v).aux = s.aux := rfl
@[simp] theorem State.withLastIntent_memLimit (s : State) (v : Intent) : (s.withLastIntent v).memLimit = s.memLimit := rfl
@[simp] theorem State.withLastIntent_zbOrigin (s : State) (v : Intent) : (s.withLastIntent v).zbOrigin = s.zbOrigin := rfl
@[simp] theorem State.withLastIntent_noise (s : State) (v : Intent) : (s.withLastIntent v).noise = s.noise := rfl
@[simp] theorem State.withLastIntent_host (s : State) (v : Intent) : (s.withLastIntent v).host = s.host := rfl
@[simp] theorem State.withLastIntent_env (s : State) (v : Intent) : (s.withLastIntent v).env = s.env := rfl
@[simp] theorem State.withLastIntent_cfg (s : State) (v : Intent) : (s.withLastIntent v).cfg = s.cfg := rfl
@[simp] theorem State.withLastIntent_phase (s : State) (v : Intent) : (s.withLastIntent v).phase = s.phase := rfl
@[simp] theorem State.withLastIntent_snap (s : State) (v : Intent) : (s.withLastIntent v).snap = s.snap := rfl
@[simp] theorem State.withLastIntent_cfgCopy (s : State) (v : Intent) : (s.withLastIntent v).cfgCopy = s.cfgCopy := rfl
@[simp] theorem State.withLastIntent_geom (s : State) (v : Intent) : (s.withLastIntent v).geom = s.geom := rfl
@[simp] theorem State.withLastIntent_interlace (s : State) (v : Intent) : (s.withLastIntent v).interlace = s.interlace := rfl
@[simp] theorem State.withLastIntent_warned (s : State) (v : Intent) : (s.withLastIntent v).warned = s.warned := rfl
@[simp] theorem State.withLastIntent_lastIntent (s : State) (v : Intent) : (s.withLastIntent v).lastIntent = v := rfl
@[simp] theorem State.withLastIntent_snapreq (s : State) (v : Intent) : (s.withLastIntent v).snapreq = s.snapreq := rfl
@[simp] theorem State.withLastIntent_prescale (s : State) (v : Intent) : (s.withLastIntent v).prescale = s.prescale := rfl
@[simp] theorem State.withLastIntent_fault (s : State) (v : Intent) : (s.withLastIntent v).fault = s.fault := rfl
@[simp] theorem State.withLastIntent_disp (s : State) (v : Intent) : (s.withLastIntent v).disp = s.disp := rfl
@[simp] theorem State.withLastIntent_workers (s : State) (v : Intent) : (s.withLastIntent v).workers = s.workers := rfl
@[simp] theorem State.withLastIntent_me (s : State) (v : Intent) : (s.withLastIntent v).me = s.me := rfl
@[simp] theorem State.withLastIntent_seq (s : State) (v : Intent) : (s.withLastIntent v).seq = s.seq := rfl
@[simp] theorem State.withLastIntent_desc (s : State) (v : Intent) : (s.withLastIntent v).desc = s.desc := rfl
@[simp] theorem State.withLastIntent_bmp (s : State) (v : Intent) : (s.withLastIntent v).bmp = s.bmp := rfl
@[simp] theorem State.withLastIntent_ret (s : State) (v : Intent) : (s.withLastIntent v).ret = s.ret := rfl
@[simp] theorem State.withLastIntent_outcome (s : State) (v : Intent) : (s.withLastIntent v).outcome = s.outcome := rfl
@[simp] theorem State.withLastIntent_out (s : State) (v : Intent) : (s.withLastIntent v).out = s.out := rfl
@[simp] theorem State.withLastIntent_tick (s : State) (v : Intent) : (s.withLastIntent v).tick = s.tick := rfl
@[simp] theorem State.withSnapreq_regs (s : State) (v : SnapReq) : (s.withSnapreq v).regs = s.regs := rfl
@[simp] theorem State.withSnapreq_mem (s : State) (v : SnapReq) : (s.withSnapreq v).mem = s.mem := rfl
@[simp] theorem State.withSnapreq_aux (s : State) (v : SnapReq) : (s.withSnapreq v).aux = s.aux := rfl
@[simp] theorem State.withSnapreq_memLimit (s : State) (v : SnapReq) : (s.withSnapreq v).memLimit = s.memLimit := rfl
@[simp] theorem State.withSnapreq_zbOrigin (s : State) (v : SnapReq) : (s.withSnapreq v).zbOrigin = s.zbOrigin := rfl
@[simp] theorem State.withSnapreq_noise (s : State) (v : SnapReq) : (s.withSnapreq v).noise = s.noise := rfl
@[simp] theorem State.withSnapreq_host (s : State) (v : SnapReq) : (s.withSnapreq v).host = s.host := rfl
@[simp] theorem State.withSnapreq_env (s : State) (v : SnapReq) : (s.withSnapreq v).env = s.env := rfl
@[simp] theorem State.withSnapreq_cfg (s : State) (v : SnapReq) : (s.withSnapreq v).cfg = s.cfg := rfl
@[simp] theorem State.withSnapreq_phase (s : State) (v : SnapReq) : (s.withSnapreq v).phase = s.phase := rfl
@[simp] theorem State.withSnapreq_snap (s : State) (v : SnapReq) : (s.withSnapreq v).snap = s.snap := rfl
@[simp] theorem State.withSnapreq_cfgCopy (s : State) (v : SnapReq) : (s.withSnapreq v).cfgCopy = s.cfgCopy := rfl
@[simp] theorem State.withSnapreq_geom (s : State) (v : SnapReq) : (s.withSnapreq v).geom = s.geom := rfl
@[simp] theorem State.withSnapreq_interlace (s : State) (v : SnapReq) : (s.withSnapreq v).interlace = s.interlace := rfl
@[simp] theorem State.withSnapreq_warned (s : State) (v : SnapReq) : (s.withSnapreq v).warned = s.warned := rfl
@[simp] theorem State.withSnapreq_lastIntent (s : State) (v : SnapReq) : (s.withSnapreq v).lastIntent = s.lastIntent := rfl
@[simp] theorem State.withSnapreq_snapreq (s : State) (v : SnapReq) : (s.withSnapreq v).snapreq = v := rfl
@[simp] theorem State.withSnapreq_prescale (s : State) (v : SnapReq) : (s.withSnapreq v).prescale = s.prescale := rfl
@[simp] theorem State.withSnapreq_fault (s : State) (v : SnapReq) : (s.withSnapreq v).fault = s.fault := rfl
@[simp] theorem State.withSnapreq_disp (s : State) (v : SnapReq) : (s.withSnapreq v).disp = s.disp := rfl
@[simp] theorem State.withSnapreq_workers (s : State) (v : SnapReq) : (s.withSnapreq v).workers = s.workers := rfl
@[simp] theorem State.withSnapreq_me (s : State) (v : SnapReq) : (s.withSnapreq v).me = s.me := rfl
@[simp] theorem State.withSnapreq_seq (s : State) (v : SnapReq) : (s.withSnapreq v).seq = s.seq := rfl
@[simp] theorem State.withSnapreq_desc (s : State) (v : SnapReq) : (s.withSnapreq v).desc = s.desc := rfl
@[simp] theorem State.withSnapreq_bmp (s : State) (v : SnapReq) : (s.withSnapreq v).bmp = s.bmp := rfl
@[simp] theorem State.withSnapreq_ret (s : State) (v : SnapReq) : (s.withSnapreq v).ret = s.ret := rfl
@[simp] theorem State.withSnapreq_outcome (s : State) (v : SnapReq) : (s.withSnapreq v).outcome = s.outcome := rfl
@[simp] theorem State.withSnapreq_out (s : State) (v : SnapReq) : (s.withSnapreq v).out = s.out := rfl
@[simp] theorem State.withSnapreq_tick (s : State) (v : SnapReq) : (s.withSnapreq v).tick = s.tick := rfl
@[simp] theorem State.withPrescale_regs (s : State) (v : Prescale) : (s.withPrescale v).regs = s.regs := rfl
@[simp] theorem State.withPrescale_mem (s : State) (v : Prescale) : (s.withPrescale v).mem = s.mem := rfl
@[simp] theorem State.withPrescale_aux (s : State) (v : Prescale) : (s.withPrescale v).aux = s.aux := rfl
@[simp] theorem State.withPrescale_memLimit (s : State) (v : Prescale) : (s.withPrescale v).memLimit = s.memLimit := rfl
@[simp] theorem State.withPrescale_zbOrigin (s : State) (v : Prescale) : (s.withPrescale v).zbOrigin = s.zbOrigin := rfl
@[simp] theorem State.withPrescale_noise (s : State) (v : Prescale) : (s.withPrescale v).noise = s.noise := rfl
@[simp] theorem State.withPrescale_host (s : State) (v : Prescale) : (s.withPrescale v).host = s.host := rfl
@[simp] theorem State.withPrescale_env (s : State) (v : Prescale) : (s.withPrescale v).env = s.env := rfl
@[simp] theorem State.withPrescale_cfg (s : State) (v : Prescale) : (s.withPrescale v).cfg = s.cfg := rfl
@[simp] theorem State.withPrescale_phase (s : State) (v : Prescale) : (s.withPrescale v).phase = s.phase := rfl
@[simp] theorem State.withPrescale_snap (s : State) (v : Prescale) : (s.withPrescale v).snap = s.snap := rfl
@[simp] theorem State.withPrescale_cfgCopy (s : State) (v : Prescale) : (s.withPrescale v).cfgCopy = s.cfgCopy := rfl
@[simp] theorem State.withPrescale_geom (s : State) (v : Prescale) : (s.withPrescale v).geom = s.geom := rfl
@[simp] theorem State.withPrescale_interlace (s : State) (v : Prescale) : (s.withPrescale v).interlace = s.interlace := rfl
@[simp] theorem State.withPrescale_warned (s : State) (v : Prescale) : (s.withPrescale v).warned = s.warned := rfl
@[simp] theorem State.withPrescale_lastIntent (s : State) (v : Prescale) : (s.withPrescale v).lastIntent = s.lastIntent := rfl
@[simp] theorem State.withPrescale_snapreq (s : State) (v : Prescale) : (s.withPrescale v).snapreq = s.snapreq := rfl
@[simp] theorem State.withPrescale_prescale (s : State) (v : Prescale) : (s.withPrescale v).prescale = v := rfl
@[simp] theorem State.withPrescale_fault (s : State) (v : Prescale) : (s.withPrescale v).fault = s.fault := rfl
@[simp] theorem State.withPrescale_disp (s : State) (v : Prescale) : (s.withPrescale v).disp = s.disp := rfl
@[simp] theorem State.withPrescale_workers (s : State) (v : Prescale) : (s.withPrescale v).workers = s.workers := rfl
@[simp] theorem State.withPrescale_me (s : State) (v : Prescale) : (s.withPrescale v).me = s.me := rfl
@[simp] theorem State.withPrescale_seq (s : State) (v : Prescale) : (s.withPrescale v).seq = s.seq := rfl
@[simp] theorem State.withPrescale_desc (s : State) (v : Prescale) : (s.withPrescale v).desc = s.desc := rfl
@[simp] theorem State.withPrescale_bmp (s : State) (v : Prescale) : (s.withPrescale v).bmp = s.bmp := rfl
@[simp] theorem State.withPrescale_ret (s : State) (v : Prescale) : (s.withPrescale v).ret = s.ret := rfl
@[simp] theorem State.withPrescale_outcome (s : State) (v : Prescale) : (s.withPrescale v).outcome = s.outcome := rfl
@[simp] theorem State.withPrescale_out (s : State) (v : Prescale) : (s.withPrescale v).out = s.out := rfl
@[simp] theorem State.withPrescale_tick (s : State) (v : Prescale) : (s.withPrescale v).tick = s.tick := rfl
@[simp] theorem State.withFault_regs (s : State) (v : FaultReg) : (s.withFault v).regs = s.regs := rfl
@[simp] theorem State.withFault_mem (s : State) (v : FaultReg) : (s.withFault v).mem = s.mem := rfl
@[simp] theorem State.withFault_aux (s : State) (v : FaultReg) : (s.withFault v).aux = s.aux := rfl
@[simp] theorem State.withFault_memLimit (s : State) (v : FaultReg) : (s.withFault v).memLimit = s.memLimit := rfl
@[simp] theorem State.withFault_zbOrigin (s : State) (v : FaultReg) : (s.withFault v).zbOrigin = s.zbOrigin := rfl
@[simp] theorem State.withFault_noise (s : State) (v : FaultReg) : (s.withFault v).noise = s.noise := rfl
@[simp] theorem State.withFault_host (s : State) (v : FaultReg) : (s.withFault v).host = s.host := rfl
@[simp] theorem State.withFault_env (s : State) (v : FaultReg) : (s.withFault v).env = s.env := rfl
@[simp] theorem State.withFault_cfg (s : State) (v : FaultReg) : (s.withFault v).cfg = s.cfg := rfl
@[simp] theorem State.withFault_phase (s : State) (v : FaultReg) : (s.withFault v).phase = s.phase := rfl
@[simp] theorem State.withFault_snap (s : State) (v : FaultReg) : (s.withFault v).snap = s.snap := rfl
@[simp] theorem State.withFault_cfgCopy (s : State) (v : FaultReg) : (s.withFault v).cfgCopy = s.cfgCopy := rfl
@[simp] theorem State.withFault_geom (s : State) (v : FaultReg) : (s.withFault v).geom = s.geom := rfl
@[simp] theorem State.withFault_interlace (s : State) (v : FaultReg) : (s.withFault v).interlace = s.interlace := rfl
@[simp] theorem State.withFault_warned (s : State) (v : FaultReg) : (s.withFault v).warned = s.warned := rfl
@[simp] theorem State.withFault_lastIntent (s : State) (v : FaultReg) : (s.withFault v).lastIntent = s.lastIntent := rfl
@[simp] theorem State.withFault_snapreq (s : State) (v : FaultReg) : (s.withFault v).snapreq = s.snapreq := rfl
@[simp] theorem State.withFault_prescale (s : State) (v : FaultReg) : (s.withFault v).prescale = s.prescale := rfl
@[simp] theorem State.withFault_fault (s : State) (v : FaultReg) : (s.withFault v).fault = v := rfl
@[simp] theorem State.withFault_disp (s : State) (v : FaultReg) : (s.withFault v).disp = s.disp := rfl
@[simp] theorem State.withFault_workers (s : State) (v : FaultReg) : (s.withFault v).workers = s.workers := rfl
@[simp] theorem State.withFault_me (s : State) (v : FaultReg) : (s.withFault v).me = s.me := rfl
@[simp] theorem State.withFault_seq (s : State) (v : FaultReg) : (s.withFault v).seq = s.seq := rfl
@[simp] theorem State.withFault_desc (s : State) (v : FaultReg) : (s.withFault v).desc = s.desc := rfl
@[simp] theorem State.withFault_bmp (s : State) (v : FaultReg) : (s.withFault v).bmp = s.bmp := rfl
@[simp] theorem State.withFault_ret (s : State) (v : FaultReg) : (s.withFault v).ret = s.ret := rfl
@[simp] theorem State.withFault_outcome (s : State) (v : FaultReg) : (s.withFault v).outcome = s.outcome := rfl
@[simp] theorem State.withFault_out (s : State) (v : FaultReg) : (s.withFault v).out = s.out := rfl
@[simp] theorem State.withFault_tick (s : State) (v : FaultReg) : (s.withFault v).tick = s.tick := rfl
@[simp] theorem State.withDisp_regs (s : State) (v : Disp) : (s.withDisp v).regs = s.regs := rfl
@[simp] theorem State.withDisp_mem (s : State) (v : Disp) : (s.withDisp v).mem = s.mem := rfl
@[simp] theorem State.withDisp_aux (s : State) (v : Disp) : (s.withDisp v).aux = s.aux := rfl
@[simp] theorem State.withDisp_memLimit (s : State) (v : Disp) : (s.withDisp v).memLimit = s.memLimit := rfl
@[simp] theorem State.withDisp_zbOrigin (s : State) (v : Disp) : (s.withDisp v).zbOrigin = s.zbOrigin := rfl
@[simp] theorem State.withDisp_noise (s : State) (v : Disp) : (s.withDisp v).noise = s.noise := rfl
@[simp] theorem State.withDisp_host (s : State) (v : Disp) : (s.withDisp v).host = s.host := rfl
@[simp] theorem State.withDisp_env (s : State) (v : Disp) : (s.withDisp v).env = s.env := rfl
@[simp] theorem State.withDisp_cfg (s : State) (v : Disp) : (s.withDisp v).cfg = s.cfg := rfl
@[simp] theorem State.withDisp_phase (s : State) (v : Disp) : (s.withDisp v).phase = s.phase := rfl
@[simp] theorem State.withDisp_snap (s : State) (v : Disp) : (s.withDisp v).snap = s.snap := rfl
@[simp] theorem State.withDisp_cfgCopy (s : State) (v : Disp) : (s.withDisp v).cfgCopy = s.cfgCopy := rfl
@[simp] theorem State.withDisp_geom (s : State) (v : Disp) : (s.withDisp v).geom = s.geom := rfl
@[simp] theorem State.withDisp_interlace (s : State) (v : Disp) : (s.withDisp v).interlace = s.interlace := rfl
@[simp] theorem State.withDisp_warned (s : State) (v : Disp) : (s.withDisp v).warned = s.warned := rfl
@[simp] theorem State.withDisp_lastIntent (s : State) (v : Disp) : (s.withDisp v).lastIntent = s.lastIntent := rfl
@[simp] theorem State.withDisp_snapreq (s : State) (v : Disp) : (s.withDisp v).snapreq = s.snapreq := rfl
@[simp] theorem State.withDisp_prescale (s : State) (v : Disp) : (s.withDisp v).prescale = s.prescale := rfl
@[simp] theorem State.withDisp_fault (s : State) (v : Disp) : (s.withDisp v).fault = s.fault := rfl
@[simp] theorem State.withDisp_disp (s : State) (v : Disp) : (s.withDisp v).disp = v := rfl
@[simp] theorem State.withDisp_workers (s : State) (v : Disp) : (s.withDisp v).workers = s.workers := rfl
@[simp] theorem State.withDisp_me (s : State) (v : Disp) : (s.withDisp v).me = s.me := rfl
@[simp] theorem State.withDisp_seq (s : State) (v : Disp) : (s.withDisp v).seq = s.seq := rfl
@[simp] theorem State.withDisp_desc (s : State) (v : Disp) : (s.withDisp v).desc = s.desc := rfl
@[simp] theorem State.withDisp_bmp (s : State) (v : Disp) : (s.withDisp v).bmp = s.bmp := rfl
@[simp] theorem State.withDisp_ret (s : State) (v : Disp) : (s.withDisp v).ret = s.ret := rfl
@[simp] theorem State.withDisp_outcome (s : State) (v : Disp) : (s.withDisp v).outcome = s.outcome := rfl
@[simp] theorem State.withDisp_out (s : State) (v : Disp) : (s.withDisp v).out = s.out := rfl
@[simp] theorem State.withDisp_tick (s : State) (v : Disp) : (s.withDisp v).tick = s.tick := rfl
@[simp] theorem State.withWorkers_regs (s : State) (v : List Worker) : (s.withWorkers v).regs = s.regs := rfl
@[simp] theorem State.withWorkers_mem (s : State) (v : List Worker) : (s.withWorkers v).mem = s.mem := rfl
@[simp] theorem State.withWorkers_aux (s : State) (v : List Worker) : (s.withWorkers v).aux = s.aux := rfl
@[simp] theorem State.withWorkers_memLimit (s : State) (v : List Worker) : (s.withWorkers v).memLimit = s.memLimit := rfl
@[simp] theorem State.withWorkers_zbOrigin (s : State) (v : List Worker) : (s.withWorkers v).zbOrigin = s.zbOrigin := rfl
@[simp] theorem State.withWorkers_noise (s : State) (v : List Worker) : (s.withWorkers v).noise = s.noise := rfl
@[simp] theorem State.withWorkers_host (s : State) (v : List Worker) : (s.withWorkers v).host = s.host := rfl
@[simp] theorem State.withWorkers_env (s : State) (v : List Worker) : (s.withWorkers v).env = s.env := rfl
@[simp] theorem State.withWorkers_cfg (s : State) (v : List Worker) : (s.withWorkers v).cfg = s.cfg := rfl
@[simp] theorem State.withWorkers_phase (s : State) (v : List Worker) : (s.withWorkers v).phase = s.phase := rfl
@[simp] theorem State.withWorkers_snap (s : State) (v : List Worker) : (s.withWorkers v).snap = s.snap := rfl
@[simp] theorem State.withWorkers_cfgCopy (s : State) (v : List Worker) : (s.withWorkers v).cfgCopy = s.cfgCopy := rfl
@[simp] theorem State.withWorkers_geom (s : State) (v : List Worker) : (s.withWorkers v).geom = s.geom := rfl
@[simp] theorem State.withWorkers_interlace (s : State) (v : List Worker) : (s.withWorkers v).interlace = s.interlace := rfl
@[simp] theorem State.withWorkers_warned (s : State) (v : List Worker) : (s.withWorkers v).warned = s.warned := rfl
@[simp] theorem State.withWorkers_lastIntent (s : State) (v : List Worker) : (s.withWorkers v).lastIntent = s.lastIntent := rfl
@[simp] theorem State.withWorkers_snapreq (s : State) (v : List Worker) : (s.withWorkers v).snapreq = s.snapreq := rfl
@[simp] theorem State.withWorkers_prescale (s : State) (v : List Worker) : (s.withWorkers v).prescale = s.prescale := rfl
@[simp] theorem State.withWorkers_fault (s : State) (v : List Worker) : (s.withWorkers v).fault = s.fault := rfl
@[simp] theorem State.withWorkers_disp (s : State) (v : List Worker) : (s.withWorkers v).disp = s.disp := rfl
@[simp] theorem State.withWorkers_workers (s : State) (v : List Worker) : (s.withWorkers v).workers = v := rfl
@[simp] theorem State.withWorkers_me (s : State) (v : List Worker) : (s.withWorkers v).me = s.me := rfl
@[simp] theorem State.withWorkers_seq (s : State) (v : List Worker) : (s.withWorkers v).seq = s.seq := rfl
@[simp] theorem State.withWorkers_desc (s : State) (v : List Worker) : (s.withWorkers v).desc = s.desc := rfl
@[simp] theorem State.withWorkers_bmp (s : State) (v : List Worker) : (s.withWorkers v).bmp = s.bmp := rfl
@[simp] theorem State.withWorkers_ret (s : State) (v : List Worker) : (s.withWorkers v).ret = s.ret := rfl
@[simp] theorem State.withWorkers_outcome (s : State) (v : List Worker) : (s.withWorkers v).outcome = s.outcome := rfl
@[simp] theorem State.withWorkers_out (s : State) (v : List Worker) : (s.withWorkers v).out = s.out := rfl
@[simp] theorem State.withWorkers_tick (s : State) (v : List Worker) : (s.withWorkers v).tick = s.tick := rfl
@[simp] theorem State.withMe_regs (s : State) (v : Nat) : (s.withMe v).regs = s.regs := rfl
@[simp] theorem State.withMe_mem (s : State) (v : Nat) : (s.withMe v).mem = s.mem := rfl
@[simp] theorem State.withMe_aux (s : State) (v : Nat) : (s.withMe v).aux = s.aux := rfl
@[simp] theorem State.withMe_memLimit (s : State) (v : Nat) : (s.withMe v).memLimit = s.memLimit := rfl
@[simp] theorem State.withMe_zbOrigin (s : State) (v : Nat) : (s.withMe v).zbOrigin = s.zbOrigin := rfl
@[simp] theorem State.withMe_noise (s : State) (v : Nat) : (s.withMe v).noise = s.noise := rfl
@[simp] theorem State.withMe_host (s : State) (v : Nat) : (s.withMe v).host = s.host := rfl
@[simp] theorem State.withMe_env (s : State) (v : Nat) : (s.withMe v).env = s.env := rfl
@[simp] theorem State.withMe_cfg (s : State) (v : Nat) : (s.withMe v).cfg = s.cfg := rfl
@[simp] theorem State.withMe_phase (s : State) (v : Nat) : (s.withMe v).phase = s.phase := rfl
@[simp] theorem State.withMe_snap (s : State) (v : Nat) : (s.withMe v).snap = s.snap := rfl
@[simp] theorem State.withMe_cfgCopy (s : State) (v : Nat) : (s.withMe v).cfgCopy = s.cfgCopy := rfl
@[simp] theorem State.withMe_geom (s : State) (v : Nat) : (s.withMe v).geom = s.geom := rfl
@[simp] theorem State.withMe_interlace (s : State) (v : Nat) : (s.withMe v).interlace = s.interlace := rfl
@[simp] theorem State.withMe_warned (s : State) (v : Nat) : (s.withMe v).warned = s.warned := rfl
@[simp] theorem State.withMe_lastIntent (s : State) (v : Nat) : (s.withMe v).lastIntent = s.lastIntent := rfl
@[simp] theorem State.withMe_snapreq (s : State) (v : Nat) : (s.withMe v).snapreq = s.snapreq := rfl
@[simp] theorem State.withMe_prescale (s : State) (v : Nat) : (s.withMe v).prescale = s.prescale := rfl
@[simp] theorem State.withMe_fault (s : State) (v : Nat) : (s.withMe v).fault = s.fault := rfl
@[simp] theorem State.withMe_disp (s : State) (v : Nat) : (s.withMe v).disp = s.disp := rfl
@[simp] theorem State.withMe_workers (s : State) (v : Nat) : (s.withMe v).workers = s.workers := rfl
@[simp] theorem State.withMe_me (s : State) (v : Nat) : (s.withMe v).me = v := rfl
@[simp] theorem State.withMe_seq (s : State) (v : Nat) : (s.withMe v).seq = s.seq := rfl
@[simp] theorem State.withMe_desc (s : State) (v : Nat) : (s.withMe v).desc = s.desc := rfl
@[simp] theorem State.withMe_bmp (s : State) (v : Nat) : (s.withMe v).bmp = s.bmp := rfl
@[simp] theorem State.withMe_ret (s : State) (v : Nat) : (s.withMe v).ret = s.ret := rfl
@[simp] theorem State.withMe_outcome (s : State) (v : Nat) : (s.withMe v).outcome = s.outcome := rfl
@[simp] theorem State.withMe_out (s : State) (v : Nat) : (s.withMe v).out = s.out := rfl
@[simp] theorem State.withMe_tick (s : State) (v : Nat) : (s.withMe v).tick = s.tick := rfl
@[simp] theorem State.withSeq_regs (s : State) (v : List SeqOp) : (s.withSeq v).regs = s.regs := rfl
@[simp] theorem State.withSeq_mem (s : State) (v : List SeqOp) : (s.withSeq v).mem = s.mem := rfl
@[simp] theorem State.withSeq_aux (s : State) (v : List SeqOp) : (s.withSeq v).aux = s.aux := rfl
@[simp] theorem State.withSeq_memLimit (s : State) (v : List SeqOp) : (s.withSeq v).memLimit = s.memLimit := rfl
@[simp] theorem State.withSeq_zbOrigin (s : State) (v : List SeqOp) : (s.withSeq v).zbOrigin = s.zbOrigin := rfl
@[simp] theorem State.withSeq_noise (s : State) (v : List SeqOp) : (s.withSeq v).noise = s.noise := rfl
@[simp] theorem State.withSeq_host (s : State) (v : List SeqOp) : (s.withSeq v).host = s.host := rfl
@[simp] theorem State.withSeq_env (s : State) (v : List SeqOp) : (s.withSeq v).env = s.env := rfl
@[simp] theorem State.withSeq_cfg (s : State) (v : List SeqOp) : (s.withSeq v).cfg = s.cfg := rfl
@[simp] theorem State.withSeq_phase (s : State) (v : List SeqOp) : (s.withSeq v).phase = s.phase := rfl
@[simp] theorem State.withSeq_snap (s : State) (v : List SeqOp) : (s.withSeq v).snap = s.snap := rfl
@[simp] theorem State.withSeq_cfgCopy (s : State) (v : List SeqOp) : (s.withSeq v).cfgCopy = s.cfgCopy := rfl
@[simp] theorem State.withSeq_geom (s : State) (v : List SeqOp) : (s.withSeq v).geom = s.geom := rfl
@[simp] theorem State.withSeq_interlace (s : State) (v : List SeqOp) : (s.withSeq v).interlace = s.interlace := rfl
@[simp] theorem State.withSeq_warned (s : State) (v : List SeqOp) : (s.withSeq v).warned = s.warned := rfl
@[simp] theorem State.withSeq_lastIntent (s : State) (v : List SeqOp) : (s.withSeq v).lastIntent = s.lastIntent := rfl
@[simp] theorem State.withSeq_snapreq (s : State) (v : List SeqOp) : (s.withSeq v).snapreq = s.snapreq := rfl
@[simp] theorem State.withSeq_prescale (s : State) (v : List SeqOp) : (s.withSeq v).prescale = s.prescale := rfl
@[simp] theorem State.withSeq_fault (s : State) (v : List SeqOp) : (s.withSeq v).fault = s.fault := rfl
@[simp] theorem State.withSeq_disp (s : State) (v : List SeqOp) : (s.withSeq v).disp = s.disp := rfl
@[simp] theorem State.withSeq_workers (s : State) (v : List SeqOp) : (s.withSeq v).workers = s.workers := rfl
@[simp] theorem State.withSeq_me (s : State) (v : List SeqOp) : (s.withSeq v).me = s.me := rfl
@[simp] theorem State.withSeq_seq (s : State) (v : List SeqOp) : (s.withSeq v).seq = v := rfl
@[simp] theorem State.withSeq_desc (s : State) (v : List SeqOp) : (s.withSeq v).desc = s.desc := rfl
@[simp] theorem State.withSeq_bmp (s : State) (v : List SeqOp) : (s.withSeq v).bmp = s.bmp := rfl
@[simp] theorem State.withSeq_ret (s : State) (v : List SeqOp) : (s.withSeq v).ret = s.ret := rfl
@[simp] theorem State.withSeq_outcome (s : State) (v : List SeqOp) : (s.withSeq v).outcome = s.outcome := rfl
@[simp] theorem State.withSeq_out (s : State) (v : List SeqOp) : (s.withSeq v).out = s.out := rfl
@[simp] theorem State.withSeq_tick (s : State) (v : List SeqOp) : (s.withSeq v).tick = s.tick := rfl
@[simp] theorem State.withDesc_regs (s : State) (v : Desc) : (s.withDesc v).regs = s.regs := rfl
@[simp] theorem State.withDesc_mem (s : State) (v : Desc) : (s.withDesc v).mem = s.mem := rfl
@[simp] theorem State.withDesc_aux (s : State) (v : Desc) : (s.withDesc v).aux = s.aux := rfl
@[simp] theorem State.withDesc_memLimit (s : State) (v : Desc) : (s.withDesc v).memLimit = s.memLimit := rfl
@[simp] theorem State.withDesc_zbOrigin (s : State) (v : Desc) : (s.withDesc v).zbOrigin = s.zbOrigin := rfl
@[simp] theorem State.withDesc_noise (s : State) (v : Desc) : (s.withDesc v).noise = s.noise := rfl
@[simp] theorem State.withDesc_host (s : State) (v : Desc) : (s.withDesc v).host = s.host := rfl
@[simp] theorem State.withDesc_env (s : State) (v : Desc) : (s.withDesc v).env = s.env := rfl
@[simp] theorem State.withDesc_cfg (s : State) (v : Desc) : (s.withDesc v).cfg = s.cfg := rfl
@[simp] theorem State.withDesc_phase (s : State) (v : Desc) : (s.withDesc v).phase = s.phase := rfl
@[simp] theorem State.withDesc_snap (s : State) (v : Desc) : (s.withDesc v).snap = s.snap := rfl
@[simp] theorem State.withDesc_cfgCopy (s : State) (v : Desc) : (s.withDesc v).cfgCopy = s.cfgCopy := rfl
@[simp] theorem State.withDesc_geom (s : State) (v : Desc) : (s.withDesc v).geom = s.geom := rfl
@[simp] theorem State.withDesc_interlace (s : State) (v : Desc) : (s.withDesc v).interlace = s.interlace := rfl
@[simp] theorem State.withDesc_warned (s : State) (v : Desc) : (s.withDesc v).warned = s.warned := rfl
@[simp] theorem State.withDesc_lastIntent (s : State) (v : Desc) : (s.withDesc v).lastIntent = s.lastIntent := rfl
@[simp] theorem State.withDesc_snapreq (s : State) (v : Desc) : (s.withDesc v).snapreq = s.snapreq := rfl
@[simp] theorem State.withDesc_prescale (s : State) (v : Desc) : (s.withDesc v).prescale = s.prescale := rfl
@[simp] theorem State.withDesc_fault (s : State) (v : Desc) : (s.withDesc v).fault = s.fault := rfl
@[simp] theorem State.withDesc_disp (s : State) (v : Desc) : (s.withDesc v).disp = s.disp := rfl
@[simp] theorem State.withDesc_workers (s : State) (v : Desc) : (s.withDesc v).workers = s.workers := rfl
@[simp] theorem State.withDesc_me (s : State) (v : Desc) : (s.withDesc v).me = s.me := rfl
@[simp] theorem State.withDesc_seq (s : State) (v : Desc) : (s.withDesc v).seq = s.seq := rfl
@[simp] theorem State.withDesc_desc (s : State) (v : Desc) : (s.withDesc v).desc = v := rfl
@[simp] theorem State.withDesc_bmp (s : State) (v : Desc) : (s.withDesc v).bmp = s.bmp := rfl
@[simp] theorem State.withDesc_ret (s : State) (v : Desc) : (s.withDesc v).ret = s.ret := rfl
@[simp] theorem State.withDesc_outcome (s : State) (v : Desc) : (s.withDesc v).outcome = s.outcome := rfl
@[simp] theorem State.withDesc_out (s : State) (v : Desc) : (s.withDesc v).out = s.out := rfl
@[simp] theorem State.withDesc_tick (s : State) (v : Desc) : (s.withDesc v).tick = s.tick := rfl
@[simp] theorem State.withBmp_regs (s : State) (v : List Byte) : (s.withBmp v).regs = s.regs := rfl
@[simp] theorem State.withBmp_mem (s : State) (v : List Byte) : (s.withBmp v).mem = s.mem := rfl
@[simp] theorem State.withBmp_aux (s : State) (v : List Byte) : (s.withBmp v).aux = s.aux := rfl
@[simp] theorem State.withBmp_memLimit (s : State) (v : List Byte) : (s.withBmp v).memLimit = s.memLimit := rfl
@[simp] theorem State.withBmp_zbOrigin (s : State) (v : List Byte) : (s.withBmp v).zbOrigin = s.zbOrigin := rfl
@[simp] theorem State.withBmp_noise (s : State) (v : List Byte) : (s.withBmp v).noise = s.noise := rfl
@[simp] theorem State.withBmp_host (s : State) (v : List Byte) : (s.withBmp v).host = s.host := rfl
@[simp] theorem State.withBmp_env (s : State) (v : List Byte) : (s.withBmp v).env = s.env := rfl
@[simp] theorem State.withBmp_cfg (s : State) (v : List Byte) : (s.withBmp v).cfg = s.cfg := rfl
@[simp] theorem State.withBmp_phase (s : State) (v : List Byte) : (s.withBmp v).phase = s.phase := rfl
@[simp] theorem State.withBmp_snap (s : State) (v : List Byte) : (s.withBmp v).snap = s.snap := rfl
@[simp] theorem State.withBmp_cfgCopy (s : State) (v : List Byte) : (s.withBmp v).cfgCopy = s.cfgCopy := rfl
@[simp] theorem State.withBmp_geom (s : State) (v : List Byte) : (s.withBmp v).geom = s.geom := rfl
@[simp] theorem State.withBmp_interlace (s : State) (v : List Byte) : (s.withBmp v).interlace = s.interlace := rfl
@[simp] theorem State.withBmp_warned (s : State) (v : List Byte) : (s.withBmp v).warned = s.warned := rfl
@[simp] theorem State.withBmp_lastIntent (s : State) (v : List Byte) : (s.withBmp v).lastIntent = s.lastIntent := rfl
@[simp] theorem State.withBmp_snapreq (s : State) (v : List Byte) : (s.withBmp v).snapreq = s.snapreq := rfl
@[simp] theorem State.withBmp_prescale (s : State) (v : List Byte) : (s.withBmp v).prescale = s.prescale := rfl
@[simp] theorem State.withBmp_fault (s : State) (v : List Byte) : (s.withBmp v).fault = s.fault := rfl
@[simp] theorem State.withBmp_disp (s : State) (v : List Byte) : (s.withBmp v).disp = s.disp := rfl
@[simp] theorem State.withBmp_workers (s : State) (v : List Byte) : (s.withBmp v).workers = s.workers := rfl
@[simp] theorem State.withBmp_me (s : State) (v : List Byte) : (s.withBmp v).me = s.me := rfl
@[simp] theorem State.withBmp_seq (s : State) (v : List Byte) : (s.withBmp v).seq = s.seq := rfl
@[simp] theorem State.withBmp_desc (s : State) (v : List Byte) : (s.withBmp v).desc = s.desc := rfl
@[simp] theorem State.withBmp_bmp (s : State) (v : List Byte) : (s.withBmp v).bmp = v := rfl
@[simp] theorem State.withBmp_ret (s : State) (v : List Byte) : (s.withBmp v).ret = s.ret := rfl
@[simp] theorem State.withBmp_outcome (s : State) (v : List Byte) : (s.withBmp v).outcome = s.outcome := rfl
@[simp] theorem State.withBmp_out (s : State) (v : List Byte) : (s.withBmp v).out = s.out := rfl
@[simp] theorem State.withBmp_tick (s : State) (v : List Byte) : (s.withBmp v).tick = s.tick := rfl
@[simp] theorem State.withRet_regs (s : State) (v : Option Nat) : (s.withRet v).regs = s.regs := rfl
@[simp] theorem State.withRet_mem (s : State) (v : Option Nat) : (s.withRet v).mem = s.mem := rfl
@[simp] theorem State.withRet_aux (s : State) (v : Option Nat) : (s.withRet v).aux = s.aux := rfl
@[simp] theorem State.withRet_memLimit (s : State) (v : Option Nat) : (s.withRet v).memLimit = s.memLimit := rfl
@[simp] theorem State.withRet_zbOrigin (s : State) (v : Option Nat) : (s.withRet v).zbOrigin = s.zbOrigin := rfl
@[simp] theorem State.withRet_noise (s : State) (v : Option Nat) : (s.withRet v).noise = s.noise := rfl
@[simp] theorem State.withRet_host (s : State) (v : Option Nat) : (s.withRet v).host = s.host := rfl
@[simp] theorem State.withRet_env (s : State) (v : Option Nat) : (s.withRet v).env = s.env := rfl
@[simp] theorem State.withRet_cfg (s : State) (v : Option Nat) : (s.withRet v).cfg = s.cfg := rfl
@[simp] theorem State.withRet_phase (s : State) (v : Option Nat) : (s.withRet v).phase = s.phase := rfl
@[simp] theorem State.withRet_snap (s : State) (v : Option Nat) : (s.withRet v).snap = s.snap := rfl
@[simp] theorem State.withRet_cfgCopy (s : State) (v : Option Nat) : (s.withRet v).cfgCopy = s.cfgCopy := rfl
@[simp] theorem State.withRet_geom (s : State) (v : Option Nat) : (s.withRet v).geom = s.geom := rfl
@[simp] theorem State.withRet_interlace (s : State) (v : Option Nat) : (s.withRet v).interlace = s.interlace := rfl
@[simp] theorem State.withRet_warned (s : State) (v : Option Nat) : (s.withRet v).warned = s.warned := rfl
@[simp] theorem State.withRet_lastIntent (s : State) (v : Option Nat) : (s.withRet v).lastIntent = s.lastIntent := rfl
@[simp] theorem State.withRet_snapreq (s : State) (v : Option Nat) : (s.withRet v).snapreq = s.snapreq := rfl
@[simp] theorem State.withRet_prescale (s : State) (v : Option Nat) : (s.withRet v).prescale = s.prescale := rfl
@[simp] theorem State.withRet_fault (s : State) (v : Option Nat) : (s.withRet v).fault = s.fault := rfl
@[simp] theorem State.withRet_disp (s : State) (v : Option Nat) : (s.withRet v).disp = s.disp := rfl
@[simp] theorem State.withRet_workers (s : State) (v : Option Nat) : (s.withRet v).workers = s.workers := rfl
@[simp] theorem State.withRet_me (s : State) (v : Option Nat) : (s.withRet v).me = s.me := rfl
@[simp] theorem State.withRet_seq (s : State) (v : Option Nat) : (s.withRet v).seq = s.seq := rfl
@[simp] theorem State.withRet_desc (s : State) (v : Option Nat) : (s.withRet v).desc = s.desc := rfl
@[simp] theorem State.withRet_bmp (s : State) (v : Option Nat) : (s.withRet v).bmp = s.bmp := rfl
@[simp] theorem State.withRet_ret (s : State) (v : Option Nat) : (s.withRet v).ret = v := rfl
@[simp] theorem State.withRet_outcome (s : State) (v : Option Nat) : (s.withRet v).outcome = s.outcome := rfl
@[simp] theorem State.withRet_out (s : State) (v : Option Nat) : (s.withRet v).out = s.out := rfl
@[simp] theorem State.withRet_tick (s : State) (v : Option Nat) : (s.withRet v).tick = s.tick := rfl
@[simp] theorem State.withOutcome_regs (s : State) (v : Option UpdateOutcome) : (s.withOutcome v).regs = s.regs := rfl
@[simp] theorem State.withOutcome_mem (s : State) (v : Option UpdateOutcome) : (s.withOutcome v).mem = s.mem := rfl
@[simp] theorem State.withOutcome_aux (s : State) (v : Option UpdateOutcome) : (s.withOutcome v).aux = s.aux := rfl
@[simp] theorem State.withOutcome_memLimit (s : State) (v : Option UpdateOutcome) : (s.withOutcome v).memLimit = s.memLimit := rfl
@[simp] theorem State.withOutcome_zbOrigin (s : State) (v : Option UpdateOutcome) : (s.withOutcome v).zbOrigin = s.zbOrigin := rfl
@[simp] theorem State.withOutcome_noise (s : State) (v : Option UpdateOutcome) : (s.withOutcome v).noise = s.noise := rfl
@[simp] theorem State.withOutcome_host (s : State) (v : Option UpdateOutcome) : (s.withOutcome v).host = s.host := rfl
@[simp] theorem State.withOutcome_env (s : State) (v : Option UpdateOutcome) : (s.withOutcome v).env = s.env := rfl
@[simp] theorem State.withOutcome_cfg (s : State) (v : Option UpdateOutcome) : (s.withOutcome v).cfg = s.cfg := rfl
@[simp] theorem State.withOutcome_phase (s : State) (v : Option UpdateOutcome) : (s.withOutcome v).phase = s.phase := rfl
@[simp] theorem State.withOutcome_snap (s : State) (v : Option UpdateOutcome) : (s.withOutcome v).snap = s.snap := rfl
@[simp] theorem State.withOutcome_cfgCopy (s : State) (v : Option UpdateOutcome) : (s.withOutcome v).cfgCopy = s.cfgCopy := rfl
@[simp] theorem State.withOutcome_geom (s : State) (v : Option UpdateOutcome) : (s.withOutcome v).geom = s.geom := rfl
@[simp] theorem State.withOutcome_interlace (s : State) (v : Option UpdateOutcome) : (s.withOutcome v).interlace = s.interlace := rfl
@[simp] theorem State.withOutcome_warned (s : State) (v : Option UpdateOutcome) : (s.withOutcome v).warned = s.warned := rfl
@[simp] theorem State.withOutcome_lastIntent (s : State) (v : Option UpdateOutcome) : (s.withOutcome v).lastIntent = s.lastIntent := rfl
@[simp] theorem State.withOutcome_snapreq (s : State) (v : Option UpdateOutcome) : (s.withOutcome v).snapreq = s.snapreq := rfl
@[simp] theorem State.withOutcome_prescale (s : State) (v : Option UpdateOutcome) : (s.withOutcome v).prescale = s.prescale := rfl
@[simp] theorem State.withOutcome_fault (s : State) (v : Option UpdateOutcome) : (s.withOutcome v).fault = s.fault := rfl
@[simp] theorem State.withOutcome_disp (s : State) (v : Option UpdateOutcome) : (s.withOutcome v).disp = s.disp := rfl
@[simp] theorem State.withOutcome_workers (s : State) (v : Option UpdateOutcome) : (s.withOutcome v).workers = s.workers := rfl
@[simp] theorem State.withOutcome_me (s : State) (v : Option UpdateOutcome) : (s.withOutcome v).me = s.me := rfl
@[simp] theorem State.withOutcome_seq (s : State) (v : Option UpdateOutcome) : (s.withOutcome v).seq = s.seq := rfl
@[simp] theorem State.withOutcome_desc (s : State) (v : Option UpdateOutcome) : (s.withOutcome v).desc = s.desc := rfl
@[simp] theorem State.withOutcome_bmp (s : State) (v : Option UpdateOutcome) : (s.withOutcome v).bmp = s.bmp := rfl
@[simp] theorem State.withOutcome_ret (s : State) (v : Option UpdateOutcome) : (s.withOutcome v).ret = s.ret := rfl
@[simp] theorem State.withOutcome_outcome (s : State) (v : Option UpdateOutcome) : (s.withOutcome v).outcome = v := rfl
@[simp] theorem State.withOutcome_out (s : State) (v : Option UpdateOutcome) : (s.withOutcome v).out = s.out := rfl
@[simp] theorem State.withOutcome_tick (s : State) (v : Option UpdateOutcome) : (s.withOutcome v).tick = s.tick := rfl
@[simp] theorem State.withOut_regs (s : State) (v : List OutEvent) : (s.withOut v).regs = s.regs := rfl
@[simp] theorem State.withOut_mem (s : State) (v : List OutEvent) : (s.withOut v).mem = s.mem := rfl
@[simp] theorem State.withOut_aux (s : State) (v : List OutEvent) : (s.withOut v).aux = s.aux := rfl
@[simp] theorem State.withOut_memLimit (s : State) (v : List OutEvent) : (s.withOut v).memLimit = s.memLimit := rfl
@[simp] theorem State.withOut_zbOrigin (s : State) (v : List OutEvent) : (s.withOut v).zbOrigin = s.zbOrigin := rfl
@[simp] theorem State.withOut_noise (s : State) (v : List OutEvent) : (s.withOut v).noise = s.noise := rfl
@[simp] theorem State.withOut_host (s : State) (v : List OutEvent) : (s.withOut v).host = s.host := rfl
@[simp] theorem State.withOut_env (s : State) (v : List OutEvent) : (s.withOut v).env = s.env := rfl
@[simp] theorem State.withOut_cfg (s : State) (v : List OutEvent) : (s.withOut v).cfg = s.cfg := rfl
@[simp] theorem State.withOut_phase (s : State) (v : List OutEvent) : (s.withOut v).phase = s.phase := rfl
@[simp] theorem State.withOut_snap (s : State) (v : List OutEvent) : (s.withOut v).snap = s.snap := rfl
@[simp] theorem State.withOut_cfgCopy (s : State) (v : List OutEvent) : (s.withOut v).cfgCopy = s.cfgCopy := rfl
@[simp] theorem State.withOut_geom (s : State) (v : List OutEvent) : (s.withOut v).geom = s.geom := rfl
@[simp] theorem State.withOut_interlace (s : State) (v : List OutEvent) : (s.withOut v).interlace = s.interlace := rfl
@[simp] theorem State.withOut_warned (s : State) (v : List OutEvent) : (s.withOut v).warned = s.warned := rfl
@[simp] theorem State.withOut_lastIntent (s : State) (v : List OutEvent) : (s.withOut v).lastIntent = s.lastIntent := rfl
@[simp] theorem State.withOut_snapreq (s : State) (v : List OutEvent) : (s.withOut v).snapreq = s.snapreq := rfl
@[simp] theorem State.withOut_prescale (s : State) (v : List OutEvent) : (s.withOut v).prescale = s.prescale := rfl
@[simp] theorem State.withOut_fault (s : State) (v : List OutEvent) : (s.withOut v).fault = s.fault := rfl
@[simp] theorem State.withOut_disp (s : State) (v : List OutEvent) : (s.withOut v).disp = s.disp := rfl
@[simp] theorem State.withOut_workers (s : State) (v : List OutEvent) : (s.withOut v).workers = s.workers := rfl
@[simp] theorem State.withOut_me (s : State) (v : List OutEvent) : (s.withOut v).me = s.me := rfl
@[simp] theorem State.withOut_seq (s : State) (v : List OutEvent) : (s.withOut v).seq = s.seq := rfl
@[simp] theorem State.withOut_desc (s : State) (v : List OutEvent) : (s.withOut v).desc = s.desc := rfl
@[simp] theorem State.withOut_bmp (s : State) (v : List OutEvent) : (s.withOut v).bmp = s.bmp := rfl
@[simp] theorem State.withOut_ret (s : State) (v : List OutEvent) : (s.withOut v).ret = s.ret := rfl
@[simp] theorem State.withOut_outcome (s : State) (v : List OutEvent) : (s.withOut v).outcome = s.outcome := rfl
@[simp] theorem State.withOut_out (s : State) (v : List OutEvent) : (s.withOut v).out = v := rfl
@[simp] theorem State.withOut_tick (s : State) (v : List OutEvent) : (s.withOut v).tick = s.tick := rfl
@[simp] theorem State.withTick_regs (s : State) (v : Nat) : (s.withTick v).regs = s.regs := rfl
@[simp] theorem State.withTick_mem (s : State) (v : Nat) : (s.withTick v).mem = s.mem := rfl
@[simp] theorem State.withTick_aux (s : State) (v : Nat) : (s.withTick v).aux = s.aux := rfl
@[simp] theorem State.withTick_memLimit (s : State) (v : Nat) : (s.withTick v).memLimit = s.memLimit := rfl
@[simp] theorem State.withTick_zbOrigin (s : State) (v : Nat) : (s.withTick v).zbOrigin = s.zbOrigin := rfl
@[simp] theorem State.withTick_noise (s : State) (v : Nat) : (s.withTick v).noise = s.noise := rfl
@[simp] theorem State.withTick_host (s : State) (v : Nat) : (s.withTick v).host = s.host := rfl
@[simp] theorem State.withTick_env (s : State) (v : Nat) : (s.withTick v).env = s.env := rfl
@[simp] theorem State.withTick_cfg (s : State) (v : Nat) : (s.withTick v).cfg = s.cfg := rfl
@[simp] theorem State.withTick_phase (s : State) (v : Nat) : (s.withTick v).phase = s.phase := rfl
@[simp] theorem State.withTick_snap (s : State) (v : Nat) : (s.withTick v).snap = s.snap := rfl
@[simp] theorem State.withTick_cfgCopy (s : State) (v : Nat) : (s.withTick v).cfgCopy = s.cfgCopy := rfl
@[simp] theorem State.withTick_geom (s : State) (v : Nat) : (s.withTick v).geom = s.geom := rfl
@[simp] theorem State.withTick_interlace (s : State) (v : Nat) : (s.withTick v).interlace = s.interlace := rfl
@[simp] theorem State.withTick_warned (s : State) (v : Nat) : (s.withTick v).warned = s.warned := rfl
@[simp] theorem State.withTick_lastIntent (s : State) (v : Nat) : (s.withTick v).lastIntent = s.lastIntent := rfl
@[simp] theorem State.withTick_snapreq (s : State) (v : Nat) : (s.withTick v).snapreq = s.snapreq := rfl
@[simp] theorem State.withTick_prescale (s : State) (v : Nat) : (s.withTick v).prescale = s.prescale := rfl
@[simp] theorem State.withTick_fault (s : State) (v : Nat) : (s.withTick v).fault = s.fault := rfl
@[simp] theorem State.withTick_disp (s : State) (v : Nat) : (s.withTick v).disp = s.disp := rfl
@[simp] theorem State.withTick_workers (s : State) (v : Nat) : (s.withTick v).workers = s.workers := rfl
@[simp] theorem State.withTick_me (s : State) (v : Nat) : (s.withTick v).me = s.me := rfl
@[simp] theorem State.withTick_seq (s : State) (v : Nat) : (s.withTick v).seq = s.seq := rfl
@[simp] theorem State.withTick_desc (s : State) (v : Nat) : (s.withTick v).desc = s.desc := rfl
@[simp] theorem State.withTick_bmp (s : State) (v : Nat) : (s.withTick v).bmp = s.bmp := rfl
@[simp] theorem State.withTick_ret (s : State) (v : Nat) : (s.withTick v).ret = s.ret := rfl
@[simp] theorem State.withTick_outcome (s : State) (v : Nat) : (s.withTick v).outcome = s.outcome := rfl
@[simp] theorem State.withTick_out (s : State) (v : Nat) : (s.withTick v).out = s.out := rfl
@[simp] theorem State.withTick_tick (s : State) (v : Nat) : (s.withTick v).tick = v := rfl

/-! ## Writing a field with what it holds, and twice -/

@[simp] theorem State.withRegs_self (s : State) : s.withRegs s.regs = s := rfl
@[simp] theorem State.withRegs_withRegs (s : State) (v w : Regs) :
    (s.withRegs v).withRegs w = s.withRegs w := rfl
@[simp] theorem State.withMem_self (s : State) : s.withMem s.mem = s := rfl
@[simp] theorem State.withMem_withMem (s : State) (v w : Memory) :
    (s.withMem v).withMem w = s.withMem w := rfl
@[simp] theorem State.withAux_self (s : State) : s.withAux s.aux = s := rfl
@[simp] theorem State.withAux_withAux (s : State) (v w : Memory) :
    (s.withAux v).withAux w = s.withAux w := rfl
@[simp] theorem State.withMemLimit_self (s : State) : s.withMemLimit s.memLimit = s := rfl
@[simp] theorem State.withMemLimit_withMemLimit (s : State) (v w : Nat) :
    (s.withMemLimit v).withMemLimit w = s.withMemLimit w := rfl
@[simp] theorem State.withZbOrigin_self (s : State) : s.withZbOrigin s.zbOrigin = s := rfl
@[simp] theorem State.withZbOrigin_withZbOrigin (s : State) (v w : BitVec 24) :
    (s.withZbOrigin v).withZbOrigin w = s.withZbOrigin w := rfl
@[simp] theorem State.withNoise_self (s : State) : s.withNoise s.noise = s := rfl
@[simp] theorem State.withNoise_withNoise (s : State) (v w : Option NoiseFn) :
    (s.withNoise v).withNoise w = s.withNoise w := rfl
@[simp] theorem State.withHost_self (s : State) : s.withHost s.host = s := rfl
@[simp] theorem State.withHost_withHost (s : State) (v w : List HostAction) :
    (s.withHost v).withHost w = s.withHost w := rfl
@[simp] theorem State.withEnv_self (s : State) : s.withEnv s.env = s := rfl
@[simp] theorem State.withEnv_withEnv (s : State) (v w : List EnvEvent) :
    (s.withEnv v).withEnv w = s.withEnv w := rfl
@[simp] theorem State.withCfg_self (s : State) : s.withCfg s.cfg = s := rfl
@[simp] theorem State.withCfg_withCfg (s : State) (v w : Cfg) :
    (s.withCfg v).withCfg w = s.withCfg w := rfl
@[simp] theorem State.withPhase_self (s : State) : s.withPhase s.phase = s := rfl
@[simp] theorem State.withPhase_withPhase (s : State) (v w : Phase) :
    (s.withPhase v).withPhase w = s.withPhase w := rfl
@[simp] theorem State.withSnap_self (s : State) : s.withSnap s.snap = s := rfl
@[simp] theorem State.withSnap_withSnap (s : State) (v w : Regs) :
    (s.withSnap v).withSnap w = s.withSnap w := rfl
@[simp] theorem State.withCfgCopy_self (s : State) : s.withCfgCopy s.cfgCopy = s := rfl
@[simp] theorem State.withCfgCopy_withCfgCopy (s : State) (v w : Cfg) :
    (s.withCfgCopy v).withCfgCopy w = s.withCfgCopy w := rfl
@[simp] theorem State.withGeom_self (s : State) : s.withGeom s.geom = s := rfl
@[simp] theorem State.withGeom_withGeom (s : State) (v w : Geometry) :
    (s.withGeom v).withGeom w = s.withGeom w := rfl
@[simp] theorem State.withInterlace_self (s : State) : s.withInterlace s.interlace = s := rfl
@[simp] theorem State.withInterlace_withInterlace (s : State) (v w : Interlace) :
    (s.withInterlace v).withInterlace w = s.withInterlace w := rfl
@[simp] theorem State.withWarned_self (s : State) : s.withWarned s.warned = s := rfl
@[simp] theorem State.withWarned_withWarned (s : State) (v w : Warned) :
    (s.withWarned v).withWarned w = s.withWarned w := rfl
@[simp] theorem State.withLastIntent_self (s : State) : s.withLastIntent s.lastIntent = s := rfl
@[simp] theorem State.withLastIntent_withLastIntent (s : State) (v w : Intent) :
    (s.withLastIntent v).withLastIntent w = s.withLastIntent w := rfl
@[simp] theorem State.withSnapreq_self (s : State) : s.withSnapreq s.snapreq = s := rfl
@[simp] theorem State.withSnapreq_withSnapreq (s : State) (v w : SnapReq) :
    (s.withSnapreq v).withSnapreq w = s.withSnapreq w := rfl
@[simp] theorem State.withPrescale_self (s : State) : s.withPrescale s.prescale = s := rfl
@[simp] theorem State.withPrescale_withPrescale (s : State) (v w : Prescale) :
    (s.withPrescale v).withPrescale w = s.withPrescale w := rfl
@[simp] theorem State.withFault_self (s : State) : s.withFault s.fault = s := rfl
@[simp] theorem State.withFault_withFault (s : State) (v w : FaultReg) :
    (s.withFault v).withFault w = s.withFault w := rfl
@[simp] theorem State.withDisp_self (s : State) : s.withDisp s.disp = s := rfl
@[simp] theorem State.withDisp_withDisp (s : State) (v w : Disp) :
    (s.withDisp v).withDisp w = s.withDisp w := rfl
@[simp] theorem State.withWorkers_self (s : State) : s.withWorkers s.workers = s := rfl
@[simp] theorem State.withWorkers_withWorkers (s : State) (v w : List Worker) :
    (s.withWorkers v).withWorkers w = s.withWorkers w := rfl
@[simp] theorem State.withMe_self (s : State) : s.withMe s.me = s := rfl
@[simp] theorem State.withMe_withMe (s : State) (v w : Nat) :
    (s.withMe v).withMe w = s.withMe w := rfl
@[simp] theorem State.withSeq_self (s : State) : s.withSeq s.seq = s := rfl
@[simp] theorem State.withSeq_withSeq (s : State) (v w : List SeqOp) :
    (s.withSeq v).withSeq w = s.withSeq w := rfl
@[simp] theorem State.withDesc_self (s : State) : s.withDesc s.desc = s := rfl
@[simp] theorem State.withDesc_withDesc (s : State) (v w : Desc) :
    (s.withDesc v).withDesc w = s.withDesc w := rfl
@[simp] theorem State.withBmp_self (s : State) : s.withBmp s.bmp = s := rfl
@[simp] theorem State.withBmp_withBmp (s : State) (v w : List Byte) :
    (s.withBmp v).withBmp w = s.withBmp w := rfl
@[simp] theorem State.withRet_self (s : State) : s.withRet s.ret = s := rfl
@[simp] theorem State.withRet_withRet (s : State) (v w : Option Nat) :
    (s.withRet v).withRet w = s.withRet w := rfl
@[simp] theorem State.withOutcome_self (s : State) : s.withOutcome s.outcome = s := rfl
@[simp] theorem State.withOutcome_withOutcome (s : State) (v w : Option UpdateOutcome) :
    (s.withOutcome v).withOutcome w = s.withOutcome w := rfl
@[simp] theorem State.withOut_self (s : State) : s.withOut s.out = s := rfl
@[simp] theorem State.withOut_withOut (s : State) (v w : List OutEvent) :
    (s.withOut v).withOut w = s.withOut w := rfl
@[simp] theorem State.withTick_self (s : State) : s.withTick s.tick = s := rfl
@[simp] theorem State.withTick_withTick (s : State) (v w : Nat) :
    (s.withTick v).withTick w = s.withTick w := rfl

end Sys2Proof.Machine
end

