-- ==== Sys2Proof/Laws/Caches.lean ====
section
/-! SUPPORT. What the fill loops of the scanline caches do (43_pipeline_filtered.md R284, R286), and
the worker's accessors of its four caches. -/

namespace Sys2Proof.Machine

/-! ## One column -/

@[simp] theorem Cache.mark_fill (c : Cache) (v : CCVG) : (c.fill v).mark = c.mark + 1 := rfl

/-- A filled column reads back; every other column reads as before. -/
theorem Cache.get_fill (c : Cache) (v : CCVG) (k : Int) :
    (c.fill v).get k = if k = c.mark + 1 then some v else c.get k := by
  unfold Cache.fill Cache.get
  by_cases h : k = c.mark + 1
  · subst h; simp
  · rw [if_neg h, List.find?_cons_of_neg (by simpa using Ne.symm h)]

/-! ## The loops -/

/-- The loop of R284: the marker rises by the number of rounds, the columns it passes are fetched,
the others stay. -/
theorem rawFill_spec (s : State) (base : Int) (n : Nat) (c : Cache) :
    (rawFill s base n c).mark = c.mark + n ∧
    ∀ k, (rawFill s base n c).get k =
      if c.mark < k ∧ k ≤ c.mark + n then some (fetch s (base + k)) else c.get k := by
  induction n generalizing c with
  | zero =>
    refine ⟨by simp [rawFill], fun k => ?_⟩
    rw [if_neg (by push_cast; omega)]
    rfl
  | succ n ih =>
    obtain ⟨hm, hg⟩ := ih (c.fill (fetch s (base + (c.mark + 1))))
    refine ⟨by simp only [rawFill, hm, Cache.mark_fill]; push_cast; ring, fun k => ?_⟩
    simp only [rawFill, hg, Cache.mark_fill, Cache.get_fill]
    by_cases h : k = c.mark + 1
    · subst h
      rw [if_neg (by omega), if_pos rfl, if_pos (by push_cast; omega)]
    · rw [if_neg h]
      exact if_congr (by push_cast; omega) rfl rfl

/-- The loop of R286, with its raw taps filled: the marker rises by the number of rounds, the columns
it passes become the divot of three raw columns, the others stay. -/
theorem divFill_spec (r : Cache) (raw : Int → CCVG) (n : Nat) (c : Cache)
    (hr : n ≠ 0 → c.mark + n + 1 ≤ r.mark ∧
      ∀ k, c.mark ≤ k → k ≤ c.mark + n + 1 → r.get k = some (raw k)) :
    ∃ d, divFill r n c = some d ∧ d.mark = c.mark + n ∧
      ∀ k, d.get k = if c.mark < k ∧ k ≤ c.mark + n
        then some (divot (raw (k - 1)) (raw k) (raw (k + 1))) else c.get k := by
  induction n generalizing c with
  | zero =>
    refine ⟨c, rfl, by simp, fun k => ?_⟩
    rw [if_neg (by push_cast; omega)]
  | succ n ih =>
    obtain ⟨hm', hr⟩ := hr (by omega)
    have hd : divotAt r (c.mark + 1)
        = some (divot (raw c.mark) (raw (c.mark + 1)) (raw (c.mark + 1 + 1))) := by
      unfold divotAt
      rw [show c.mark + 1 - 1 = c.mark by ring, hr c.mark (by omega) (by push_cast; omega),
        hr (c.mark + 1) (by omega) (by push_cast; omega),
        hr (c.mark + 1 + 1) (by omega) (by push_cast; omega)]
      simp only
      rw [if_pos (by push_cast at hm'; omega)]
    obtain ⟨d, he, hdm, hdg⟩ := ih
      (c.fill (divot (raw c.mark) (raw (c.mark + 1)) (raw (c.mark + 1 + 1))))
      (fun _ => ⟨by simp; push_cast at hm'; omega,
        fun k h1 h2 => hr k (by simp at h1; omega) (by simp at h2; push_cast; omega)⟩)
    refine ⟨d, by simp only [divFill, hd]; exact he, by simp [hdm]; ring, fun k => ?_⟩
    rw [hdg]
    simp only [Cache.mark_fill, Cache.get_fill]
    by_cases h : k = c.mark + 1
    · subst h
      rw [if_neg (by omega), if_pos rfl, if_pos (by push_cast; omega),
        show c.mark + 1 - 1 = c.mark by ring]
    · rw [if_neg h]
      exact if_congr (by push_cast; omega) rfl rfl

/-- The number of columns a cache lacks brings its marker to the needed column, or leaves it. -/
theorem Cache.mark_lacks (cache : Cache) (c : Int) :
    cache.mark + (cache.lacks c : Int) = max cache.mark c := by
  unfold Cache.lacks
  omega

/-! ## The worker's caches -/

@[simp] theorem Worker.raw_setRaw (w : Worker) (row : SrcRow) (c : Cache) :
    (w.setRaw row c).raw row = c := by cases row <;> rfl
@[simp] theorem Worker.div_setRaw (w : Worker) (row row' : SrcRow) (c : Cache) :
    (w.setRaw row c).div row' = w.div row' := by cases row <;> cases row' <;> rfl
@[simp] theorem Worker.div_setDiv (w : Worker) (row : SrcRow) (c : Cache) :
    (w.setDiv row c).div row = c := by cases row <;> rfl
@[simp] theorem Worker.raw_setDiv (w : Worker) (row row' : SrcRow) (c : Cache) :
    (w.setDiv row c).raw row' = w.raw row' := by cases row <;> cases row' <;> rfl

/-- Filling a raw cache keeps what R285 says of it, and brings the marker to the needed column. -/
theorem CacheHolds.rawFill {s : State} {base : Int} {first : Int} {c : Cache}
    (h : CacheHolds first (rawValue s base) c) (n : Nat) :
    CacheHolds first (rawValue s base) (rawFill s base n c) := by
  obtain ⟨hm, hg⟩ := rawFill_spec s base n c
  refine ⟨by have := h.started; omega, fun k h1 h2 => ?_, fun k hk => ?_⟩
  · rw [hg]
    split
    · rfl
    · exact h.filled k h1 (by omega)
  · have := h.started
    rw [hg, if_neg (by omega)]
    exact h.nothingElse k (by omega)

/-- Filling a divot cache from the raw cache of its row keeps what R285 says of it, and brings the
marker to the needed column. -/
theorem CacheHolds.divFill {s : State} {base first : Int} {r d : Cache}
    (hr : CacheHolds (first - 1) (rawValue s base) r) (hd : CacheHolds first (divValue s base) d)
    (c : Int) (hc : c + 1 ≤ r.mark) :
    ∃ d', divFill r (d.lacks c) d = some d' ∧ d'.mark = max d.mark c ∧
      CacheHolds first (divValue s base) d' := by
  have hl := Cache.mark_lacks d c
  have hs := hd.started
  obtain ⟨d', h1, h2, h3⟩ := divFill_spec r (rawValue s base) (d.lacks c) d (fun hn => by
    have hx : d.mark < c := by unfold Cache.lacks at hn; omega
    exact ⟨by omega, fun k h1 h2 => hr.filled k (by omega) (by omega)⟩)
  refine ⟨d', h1, by omega, by omega, fun k a b => ?_, fun k a => ?_⟩
  · rw [h3]
    split
    · rfl
    · exact hd.filled k a (by omega)
  · rw [h3, if_neg (by omega)]
    exact hd.nothingElse k (by omega)

/-! ## What a fetch depends on -/

/-- A fetch reads the snapshot, the geometry and emulated memory, and nothing else. -/
theorem fetch_congr {s t : State} (h1 : s.snap = t.snap) (h2 : s.geom = t.geom) (h3 : s.mem = t.mem)
    (h4 : s.aux = t.aux) (h5 : s.memLimit = t.memLimit) (num : Int) : fetch s num = fetch t num := by
  cases s
  cases t
  simp only at h1 h2 h3 h4 h5
  subst h1 h2 h3 h4 h5
  rfl

/-- The loop of R284 depends on what its fetches do. -/
theorem rawFill_congr {s t : State} (h : ∀ num, fetch s num = fetch t num) (base : Int) (n : Nat)
    (c : Cache) : rawFill s base n c = rawFill t base n c := by
  induction n generalizing c with
  | zero => rfl
  | succ n ih => simp only [rawFill, h, ih]

/-- The cache invariants of R285 depend on what a fetch depends on, and on the worker's two base
offsets and four caches. -/
theorem ScanlineCaches.congr {s t : State} {w v : Worker} (h : ScanlineCaches s w)
    (hs : s.snap = t.snap) (hg : s.geom = t.geom) (hm : s.mem = t.mem) (ha : s.aux = t.aux)
    (hl : s.memLimit = t.memLimit) (hp : v.pixels = w.pixels) (hn : v.nextpixels = w.nextpixels)
    (h1 : v.rawc = w.rawc) (h2 : v.rawn = w.rawn) (h3 : v.divc = w.divc) (h4 : v.divn = w.divn) :
    ScanlineCaches t v := by
  have hf : fetch s = fetch t := funext fun n => fetch_congr hs hg hm ha hl n
  have hr : rawValue s = rawValue t := by unfold rawValue; rw [hf]
  have hd : divValue s = divValue t := by unfold divValue; rw [hr]
  have hc : firstColumn s = firstColumn t := by unfold firstColumn; rw [hg]
  have hctrl : s.ctrl = t.ctrl := by unfold State.ctrl; rw [hs]
  obtain ⟨a, b, c, d⟩ := h
  rw [hr, hc] at a b
  rw [hd, hc, hctrl] at c d
  exact ⟨by rwa [hp, h1], by rwa [hn, h2], by rwa [hp, h3], by rwa [hn, h4]⟩

end Sys2Proof.Machine
end

