-- ==== Sys2Proof/Laws/Memory.lean ====
section
/-! SUPPORT. The laws of the canonical memories: a read after a write, and that every memory
operation keeps the canonical form. -/

namespace Sys2Proof.Machine

variable {n : Nat}

/-! ## The canonical form -/

/-- What the canonical form says of a first entry. -/
theorem sparseWfFrom_cons {lo b : Nat} {u : BitVec n} {r : List (Nat × BitVec n)} :
    sparseWfFrom lo ((b, u) :: r) = true ↔ lo ≤ b ∧ u ≠ 0 ∧ sparseWfFrom (b + 1) r = true := by
  simp only [sparseWfFrom, Bool.and_eq_true, decide_eq_true_eq, and_assoc]

/-- A canonical list from `lo` is canonical from anything lower. -/
theorem sparseWfFrom_mono {lo lo' : Nat} {m : List (Nat × BitVec n)} (h : sparseWfFrom lo m = true)
    (hl : lo' ≤ lo) : sparseWfFrom lo' m = true := by
  cases m with
  | nil => rfl
  | cons e r =>
    obtain ⟨hb, hu, hr⟩ := sparseWfFrom_cons.1 h
    exact sparseWfFrom_cons.2 ⟨by omega, hu, hr⟩

/-- Below its first address a canonical list holds 0. -/
theorem sparseGet_below {lo a : Nat} {m : List (Nat × BitVec n)} (h : sparseWfFrom lo m = true)
    (ha : a < lo) : sparseGet m a = 0 := by
  induction m generalizing lo with
  | nil => rfl
  | cons e r ih =>
    obtain ⟨hb, -, hr⟩ := sparseWfFrom_cons.1 h
    simp only [sparseGet]
    rw [if_neg (by omega)]
    exact ih hr (by omega)

/-- A write keeps the canonical form. -/
theorem sparseSet_wfFrom {lo a : Nat} {m : List (Nat × BitVec n)} (v : BitVec n)
    (h : sparseWfFrom lo m = true) (ha : lo ≤ a) : sparseWfFrom lo (sparseSet m a v) = true := by
  induction m generalizing lo with
  | nil =>
    simp only [sparseSet]
    split
    · rfl
    · exact sparseWfFrom_cons.2 ⟨ha, ‹_›, rfl⟩
  | cons e r ih =>
    obtain ⟨hb, hu, hr⟩ := sparseWfFrom_cons.1 h
    simp only [sparseSet]
    split
    · split
      · exact h
      · exact sparseWfFrom_cons.2 ⟨ha, ‹_›, sparseWfFrom_cons.2 ⟨by omega, hu, hr⟩⟩
    · split
      · split
        · exact sparseWfFrom_mono hr (by omega)
        · exact sparseWfFrom_cons.2 ⟨ha, ‹_›, by simp_all⟩
      · exact sparseWfFrom_cons.2 ⟨hb, hu, ih hr (by omega)⟩

/-- A write keeps a memory canonical. -/
theorem sparseSet_wf {m : List (Nat × BitVec n)} (a : Nat) (v : BitVec n)
    (h : sparseWf m = true) : sparseWf (sparseSet m a v) = true :=
  sparseSet_wfFrom v h (Nat.zero_le a)

/-! ## A read after a write -/

/-- A read of a canonical memory after a write: the value written at its address, what was there
everywhere else. -/
theorem sparseGet_sparseSet_from {lo a : Nat} {m : List (Nat × BitVec n)} (v : BitVec n) (b : Nat)
    (h : sparseWfFrom lo m = true) (ha : lo ≤ a) :
    sparseGet (sparseSet m a v) b = if b = a then v else sparseGet m b := by
  induction m generalizing lo with
  | nil =>
    simp only [sparseSet]
    split
    · subst v; simp [sparseGet]
    · simp [sparseGet]
  | cons e r ih =>
    obtain ⟨c, u⟩ := e
    simp only [sparseWfFrom, Bool.and_eq_true, decide_eq_true_eq] at h
    obtain ⟨⟨hc, hu⟩, hr⟩ := h
    simp only [sparseSet]
    split
    · rename_i hac
      split
      · subst v
        by_cases hb : b = a
        · subst hb
          rw [if_pos rfl]
          simp only [sparseGet]
          rw [if_neg (by omega)]
          exact sparseGet_below hr (by omega)
        · rw [if_neg hb]
      · simp only [sparseGet]
    · split
      · rename_i hac hca
        subst hca
        by_cases hb : b = a
        · subst hb
          rw [if_pos rfl]
          split
          · subst v; exact sparseGet_below hr (by omega)
          · simp [sparseGet]
        · rw [if_neg hb]
          split <;> simp [sparseGet, hb]
      · rename_i h1 h2
        simp only [sparseGet]
        rw [ih hr (by omega)]
        by_cases hb : b = c
        · subst hb
          rw [if_pos rfl, if_pos rfl, if_neg (by omega)]
        · rw [if_neg hb, if_neg hb]

/-- A read of a canonical memory after a write. -/
theorem sparseGet_sparseSet {m : List (Nat × BitVec n)} (a : Nat) (v : BitVec n) (b : Nat)
    (h : sparseWf m = true) :
    sparseGet (sparseSet m a v) b = if b = a then v else sparseGet m b :=
  sparseGet_sparseSet_from v b h (Nat.zero_le a)

/-- A read at the address written. -/
theorem sparseGet_sparseSet_same {m : List (Nat × BitVec n)} (a : Nat) (v : BitVec n)
    (h : sparseWf m = true) : sparseGet (sparseSet m a v) a = v := by
  simp [sparseGet_sparseSet, h]

/-- A read at any other address. -/
theorem sparseGet_sparseSet_other {m : List (Nat × BitVec n)} {a b : Nat} (v : BitVec n)
    (h : sparseWf m = true) (hb : b ≠ a) : sparseGet (sparseSet m a v) b = sparseGet m b := by
  simp [sparseGet_sparseSet, h, hb]

/-- What the entries of a canonical list after a write are: the one written, or one that was. -/
theorem mem_sparseSet {m : List (Nat × BitVec n)} {a : Nat} {v : BitVec n} {e : Nat × BitVec n}
    (h : e ∈ sparseSet m a v) : e = (a, v) ∨ e ∈ m := by
  induction m with
  | nil =>
    simp only [sparseSet] at h
    split at h
    · cases h
    · exact .inl (by simpa using h)
  | cons d r ih =>
    obtain ⟨b, u⟩ := d
    simp only [sparseSet] at h
    split at h
    · split at h
      · exact .inr h
      · rcases List.mem_cons.1 h with h | h
        · exact .inl h
        · exact .inr h
    · split at h
      · split at h
        · exact .inr (List.mem_cons_of_mem _ h)
        · rcases List.mem_cons.1 h with h | h
          · exact .inl h
          · exact .inr (List.mem_cons_of_mem _ h)
      · rcases List.mem_cons.1 h with h | h
        · exact .inr (h ▸ List.mem_cons_self)
        · rcases ih h with h | h
          · exact .inl h
          · exact .inr (List.mem_cons_of_mem _ h)

/-! ## The host's memory writes -/

/-- A halfword write keeps the memory canonical. -/
theorem writeHalf_wf {m : Memory} (i : Nat) (v : Half) (h : Memory.wf m = true) :
    Memory.wf (writeHalf m i v) = true := sparseSet_wf _ _ (sparseSet_wf _ _ h)

/-- A word write keeps the memory canonical. -/
theorem writeWord_wf {m : Memory} (j : Nat) (v : Word) (h : Memory.wf m = true) :
    Memory.wf (writeWord m j v) = true := writeHalf_wf _ _ (writeHalf_wf _ _ h)

/-- A byte after a halfword write (20_memory.md R81). -/
theorem sparseGet_writeHalf {m : Memory} (i : Nat) (v : Half) (b : Nat) (h : Memory.wf m = true) :
    sparseGet (writeHalf m i v) b =
      if b = 2 * i + 1 then v.extractLsb' 0 8
      else if b = 2 * i then v.extractLsb' 8 8 else sparseGet m b := by
  unfold writeHalf
  rw [sparseGet_sparseSet _ _ _ (sparseSet_wf _ _ h), sparseGet_sparseSet _ _ _ h]

/-! ## The prescale buffer -/

/-- A write inside the buffer keeps the prescale buffer canonical and inside its bounds. -/
theorem prescale_set_wf {p : Prescale} {i : Nat} (v : Word) (h : Prescale.wf p = true)
    (hi : i < 400000) : Prescale.wf (sparseSet p i v) = true := by
  simp only [Prescale.wf, Bool.and_eq_true, List.all_eq_true, decide_eq_true_eq] at h ⊢
  refine ⟨sparseSet_wf _ _ h.1, fun e he => ?_⟩
  rcases mem_sparseSet he with rfl | he
  · exact hi
  · exact h.2 e he

/-- Everything a write of the prescale buffer can do: a next state with the one word written, or a
fault. -/
theorem writePrescale_cases (i : Int) (v : Word) (s : State) :
    (0 ≤ i ∧ i < 400000 ∧ writePrescale i v s
        = .next (s.withPrescale (sparseSet s.prescale i.toNat v))) ∨
      (¬(0 ≤ i ∧ i < 400000) ∧ writePrescale i v s = .fault .prescaleIndex) := by
  unfold writePrescale
  simp only [Config.prescaleWords]
  split
  · rename_i h; exact .inl ⟨h.1, h.2, rfl⟩
  · rename_i h; exact .inr ⟨h, rfl⟩

/-- The reset memories have the canonical form. -/
theorem reset_memories_wf : Memory.wf State.reset.mem = true ∧ Memory.wf State.reset.aux = true ∧
    Prescale.wf State.reset.prescale = true := ⟨rfl, rfl, rfl⟩

end Sys2Proof.Machine
end

