-- ==== Sys2Proof/Laws/Ops.lean ====
section
/-! SUPPORT. What each shared operation can do, said once: the host port, the worker in turn, the
events, the fatal error, the skip, the warnings, and issuing. -/

namespace Sys2Proof.Machine

/-! ## The host port and the worker in turn -/

/-- The host port answers a next state only when it is open, and then the command's own. -/
theorem hostPort_next {s t : State} {k : State → Out} (h : hostPort s k = .next t) :
    s.fault.valid = false ∧ s.phase = .idle ∧ k s = .next t := by
  unfold hostPort at h
  split at h
  · cases h
  · split at h
    · exact ⟨by simpa using ‹¬s.fault.valid = true›, ‹_›, h⟩
    · cases h

/-- An open host port runs the command. -/
theorem hostPort_open {s : State} {k : State → Out} (hf : s.fault.valid = false)
    (hp : s.phase = .idle) : hostPort s k = k s := by simp [hostPort, hf, hp]

/-- A worker's operation answers a next state only for a worker in turn. -/
theorem onWorker_next {s t : State} {k : Worker → Out} (h : onWorker s k = .next t) :
    ∃ w, s.workers[s.me]? = some w ∧ k w = .next t := by
  unfold onWorker at h
  split at h
  · exact ⟨_, ‹_›, h⟩
  · cases h

/-- A worker's operation, for the worker in turn. -/
theorem onWorker_some {s : State} {k : Worker → Out} {w : Worker}
    (h : s.workers[s.me]? = some w) : onWorker s k = k w := by simp [onWorker, h]

/-- Replacing the worker in turn by itself changes nothing. -/
theorem withWorker_self {s : State} {w : Worker} (h : s.workers[s.me]? = some w) :
    s.withWorker w = s := by
  obtain ⟨hl, hw⟩ := List.getElem?_eq_some_iff.1 h
  have : s.workers.set s.me w = s.workers := by rw [← hw]; exact List.set_getElem_self hl
  unfold State.withWorker
  rw [this]
  rfl

/-- The worker in turn after it has been replaced. -/
theorem withWorker_turn {s : State} {w : Worker} (v : Worker) (h : s.workers[s.me]? = some w) :
    (s.withWorker v).workers[(s.withWorker v).me]? = some v := by
  obtain ⟨hl, -⟩ := List.getElem?_eq_some_iff.1 h
  simp [State.withWorker, hl]

/-- Replacing the worker in turn keeps the number of workers. -/
@[simp] theorem withWorker_length (s : State) (v : Worker) :
    (s.withWorker v).workers.length = s.workers.length := by simp [State.withWorker]

/-! ## Warnings -/

/-- A one-time warning: reported once, remembered for good (60_exceptions.md R392, R393). -/
theorem warnOnceVbus_eq (s : State) : warnOnceVbus s
    = (s.withWarned { s.warned with vbus := true }).withOut
        (s.out ++ if s.warned.vbus then [] else [.report .warning 0x21 0]) := by
  unfold warnOnceVbus
  by_cases h : s.warned.vbus = true
  · have e : ({ s.warned with vbus := true } : Warned) = s.warned := by
      cases hw : s.warned; simp_all
    rw [if_pos h, if_pos h, e, List.append_nil]
    rfl
  · rw [if_neg h, if_neg h]
    rfl

/-- A one-time warning: reported once, remembered for good (60_exceptions.md R392, R394). -/
theorem warnOnceNolerp16_eq (s : State) : warnOnceNolerp16 s
    = (s.withWarned { s.warned with nolerp16 := true }).withOut
        (s.out ++ if s.warned.nolerp16 then [] else [.report .warning 0x22 0]) := by
  unfold warnOnceNolerp16
  by_cases h : s.warned.nolerp16 = true
  · have e : ({ s.warned with nolerp16 := true } : Warned) = s.warned := by
      cases hw : s.warned; simp_all
    rw [if_pos h, if_pos h, e, List.append_nil]
    rfl
  · rw [if_neg h, if_neg h]
    rfl

/-! ## The dither noise -/

/-- The noise depends on nothing but the parameter's field. -/
theorem ditherNoise_congr {s t : State} (h : s.noise = t.noise) : ditherNoise s = ditherNoise t := by
  unfold ditherNoise
  rw [h]

/-- The noise that no script fixes is the open parameter (41_filters.md R205). -/
theorem ditherNoise_open {s : State} (h : s.noise = none) (y x : Nat) :
    ditherNoise s y x = Config.ditherNoise y x := by simp [ditherNoise, h]

/-- The noise that a script's `.noise f` fixes (30_encoding.md R144). -/
theorem ditherNoise_fixed {s : State} {f : NoiseFn} (h : s.noise = some f) (y x : Nat) :
    ditherNoise s y x = noiseFnAt f y x := by simp [ditherNoise, h]

@[simp] theorem noiseFnAt_affine (a b c y x : Nat) :
    noiseFnAt (.affine a b c) y x = BitVec.ofNat 15 (a * y + b * x + c) := rfl

@[simp] theorem noiseFnAt_point_self (y x : Nat) (v : BitVec 15) (r : NoiseFn) :
    noiseFnAt (.point y x v r) y x = v := by simp [noiseFnAt]

theorem noiseFnAt_point_ne {y0 x0 y x : Nat} (v : BitVec 15) (r : NoiseFn)
    (h : (y, x) ≠ (y0, x0)) : noiseFnAt (.point y0 x0 v r) y x = noiseFnAt r y x := by
  rw [noiseFnAt, if_neg]
  rintro ⟨rfl, rfl⟩
  exact h rfl

/-! ## `emit`, field by field -/

@[simp] theorem emit_regs (e : OutEvent) (s : State) :
    (emit e s).regs = s.regs := rfl
@[simp] theorem emit_mem (e : OutEvent) (s : State) :
    (emit e s).mem = s.mem := rfl
@[simp] theorem emit_aux (e : OutEvent) (s : State) :
    (emit e s).aux = s.aux := rfl
@[simp] theorem emit_memLimit (e : OutEvent) (s : State) :
    (emit e s).memLimit = s.memLimit := rfl
@[simp] theorem emit_zbOrigin (e : OutEvent) (s : State) :
    (emit e s).zbOrigin = s.zbOrigin := rfl
@[simp] theorem emit_noise (e : OutEvent) (s : State) :
    (emit e s).noise = s.noise := rfl
@[simp] theorem emit_host (e : OutEvent) (s : State) :
    (emit e s).host = s.host := rfl
@[simp] theorem emit_env (e : OutEvent) (s : State) :
    (emit e s).env = s.env := rfl
@[simp] theorem emit_cfg (e : OutEvent) (s : State) :
    (emit e s).cfg = s.cfg := rfl
@[simp] theorem emit_phase (e : OutEvent) (s : State) :
    (emit e s).phase = s.phase := rfl
@[simp] theorem emit_snap (e : OutEvent) (s : State) :
    (emit e s).snap = s.snap := rfl
@[simp] theorem emit_cfgCopy (e : OutEvent) (s : State) :
    (emit e s).cfgCopy = s.cfgCopy := rfl
@[simp] theorem emit_geom (e : OutEvent) (s : State) :
    (emit e s).geom = s.geom := rfl
@[simp] theorem emit_interlace (e : OutEvent) (s : State) :
    (emit e s).interlace = s.interlace := rfl
@[simp] theorem emit_warned (e : OutEvent) (s : State) :
    (emit e s).warned = s.warned := rfl
@[simp] theorem emit_lastIntent (e : OutEvent) (s : State) :
    (emit e s).lastIntent = s.lastIntent := rfl
@[simp] theorem emit_snapreq (e : OutEvent) (s : State) :
    (emit e s).snapreq = s.snapreq := rfl
@[simp] theorem emit_prescale (e : OutEvent) (s : State) :
    (emit e s).prescale = s.prescale := rfl
@[simp] theorem emit_fault (e : OutEvent) (s : State) :
    (emit e s).fault = s.fault := rfl
@[simp] theorem emit_disp (e : OutEvent) (s : State) :
    (emit e s).disp = s.disp := rfl
@[simp] theorem emit_workers (e : OutEvent) (s : State) :
    (emit e s).workers = s.workers := rfl
@[simp] theorem emit_me (e : OutEvent) (s : State) :
    (emit e s).me = s.me := rfl
@[simp] theorem emit_seq (e : OutEvent) (s : State) :
    (emit e s).seq = s.seq := rfl
@[simp] theorem emit_desc (e : OutEvent) (s : State) :
    (emit e s).desc = s.desc := rfl
@[simp] theorem emit_bmp (e : OutEvent) (s : State) :
    (emit e s).bmp = s.bmp := rfl
@[simp] theorem emit_ret (e : OutEvent) (s : State) :
    (emit e s).ret = s.ret := rfl
@[simp] theorem emit_outcome (e : OutEvent) (s : State) :
    (emit e s).outcome = s.outcome := rfl
@[simp] theorem emit_out (e : OutEvent) (s : State) :
    (emit e s).out = s.out ++ [e] := rfl
@[simp] theorem emit_tick (e : OutEvent) (s : State) :
    (emit e s).tick = s.tick := rfl

/-! ## `raiseFatal`, field by field -/

@[simp] theorem raiseFatal_regs (c : FatalCause) (info : Int) (s : State) :
    (raiseFatal c info s).regs = s.regs := by simp [raiseFatal]
@[simp] theorem raiseFatal_mem (c : FatalCause) (info : Int) (s : State) :
    (raiseFatal c info s).mem = s.mem := by simp [raiseFatal]
@[simp] theorem raiseFatal_aux (c : FatalCause) (info : Int) (s : State) :
    (raiseFatal c info s).aux = s.aux := by simp [raiseFatal]
@[simp] theorem raiseFatal_memLimit (c : FatalCause) (info : Int) (s : State) :
    (raiseFatal c info s).memLimit = s.memLimit := by simp [raiseFatal]
@[simp] theorem raiseFatal_zbOrigin (c : FatalCause) (info : Int) (s : State) :
    (raiseFatal c info s).zbOrigin = s.zbOrigin := by simp [raiseFatal]
@[simp] theorem raiseFatal_noise (c : FatalCause) (info : Int) (s : State) :
    (raiseFatal c info s).noise = s.noise := by simp [raiseFatal]
@[simp] theorem raiseFatal_host (c : FatalCause) (info : Int) (s : State) :
    (raiseFatal c info s).host = s.host := by simp [raiseFatal]
@[simp] theorem raiseFatal_env (c : FatalCause) (info : Int) (s : State) :
    (raiseFatal c info s).env = s.env := by simp [raiseFatal]
@[simp] theorem raiseFatal_cfg (c : FatalCause) (info : Int) (s : State) :
    (raiseFatal c info s).cfg = s.cfg := by simp [raiseFatal]
@[simp] theorem raiseFatal_phase (c : FatalCause) (info : Int) (s : State) :
    (raiseFatal c info s).phase = .halted := by simp [raiseFatal]
@[simp] theorem raiseFatal_snap (c : FatalCause) (info : Int) (s : State) :
    (raiseFatal c info s).snap = s.snap := by simp [raiseFatal]
@[simp] theorem raiseFatal_cfgCopy (c : FatalCause) (info : Int) (s : State) :
    (raiseFatal c info s).cfgCopy = s.cfgCopy := by simp [raiseFatal]
@[simp] theorem raiseFatal_geom (c : FatalCause) (info : Int) (s : State) :
    (raiseFatal c info s).geom = s.geom := by simp [raiseFatal]
@[simp] theorem raiseFatal_interlace (c : FatalCause) (info : Int) (s : State) :
    (raiseFatal c info s).interlace = s.interlace := by simp [raiseFatal]
@[simp] theorem raiseFatal_warned (c : FatalCause) (info : Int) (s : State) :
    (raiseFatal c info s).warned = s.warned := by simp [raiseFatal]
@[simp] theorem raiseFatal_lastIntent (c : FatalCause) (info : Int) (s : State) :
    (raiseFatal c info s).lastIntent = s.lastIntent := by simp [raiseFatal]
@[simp] theorem raiseFatal_snapreq (c : FatalCause) (info : Int) (s : State) :
    (raiseFatal c info s).snapreq = s.snapreq := by simp [raiseFatal]
@[simp] theorem raiseFatal_prescale (c : FatalCause) (info : Int) (s : State) :
    (raiseFatal c info s).prescale = s.prescale := by simp [raiseFatal]
@[simp] theorem raiseFatal_fault (c : FatalCause) (info : Int) (s : State) :
    (raiseFatal c info s).fault = ⟨true, fatalCode c, BitVec.ofInt 32 info⟩ := by simp [raiseFatal]
@[simp] theorem raiseFatal_disp (c : FatalCause) (info : Int) (s : State) :
    (raiseFatal c info s).disp = s.disp := by simp [raiseFatal]
@[simp] theorem raiseFatal_workers (c : FatalCause) (info : Int) (s : State) :
    (raiseFatal c info s).workers = s.workers := by simp [raiseFatal]
@[simp] theorem raiseFatal_me (c : FatalCause) (info : Int) (s : State) :
    (raiseFatal c info s).me = s.me := by simp [raiseFatal]
@[simp] theorem raiseFatal_seq (c : FatalCause) (info : Int) (s : State) :
    (raiseFatal c info s).seq = [] := by simp [raiseFatal]
@[simp] theorem raiseFatal_desc (c : FatalCause) (info : Int) (s : State) :
    (raiseFatal c info s).desc = s.desc := by simp [raiseFatal]
@[simp] theorem raiseFatal_bmp (c : FatalCause) (info : Int) (s : State) :
    (raiseFatal c info s).bmp = s.bmp := by simp [raiseFatal]
@[simp] theorem raiseFatal_ret (c : FatalCause) (info : Int) (s : State) :
    (raiseFatal c info s).ret = s.ret := by simp [raiseFatal]
@[simp] theorem raiseFatal_outcome (c : FatalCause) (info : Int) (s : State) :
    (raiseFatal c info s).outcome = some (.fault c) := by simp [raiseFatal]
@[simp] theorem raiseFatal_out (c : FatalCause) (info : Int) (s : State) :
    (raiseFatal c info s).out = s.out ++ [.report .fatal (fatalCode c) (BitVec.ofInt 32 info)] := by simp [raiseFatal]
@[simp] theorem raiseFatal_tick (c : FatalCause) (info : Int) (s : State) :
    (raiseFatal c info s).tick = s.tick := by simp [raiseFatal]

/-! ## `skipFrame`, field by field -/

@[simp] theorem skipFrame_regs (c : SkipCause) (s : State) :
    (skipFrame c s).regs = s.regs := rfl
@[simp] theorem skipFrame_mem (c : SkipCause) (s : State) :
    (skipFrame c s).mem = s.mem := rfl
@[simp] theorem skipFrame_aux (c : SkipCause) (s : State) :
    (skipFrame c s).aux = s.aux := rfl
@[simp] theorem skipFrame_memLimit (c : SkipCause) (s : State) :
    (skipFrame c s).memLimit = s.memLimit := rfl
@[simp] theorem skipFrame_zbOrigin (c : SkipCause) (s : State) :
    (skipFrame c s).zbOrigin = s.zbOrigin := rfl
@[simp] theorem skipFrame_noise (c : SkipCause) (s : State) :
    (skipFrame c s).noise = s.noise := rfl
@[simp] theorem skipFrame_host (c : SkipCause) (s : State) :
    (skipFrame c s).host = s.host := rfl
@[simp] theorem skipFrame_env (c : SkipCause) (s : State) :
    (skipFrame c s).env = s.env := rfl
@[simp] theorem skipFrame_cfg (c : SkipCause) (s : State) :
    (skipFrame c s).cfg = s.cfg := rfl
@[simp] theorem skipFrame_phase (c : SkipCause) (s : State) :
    (skipFrame c s).phase = .idle := rfl
@[simp] theorem skipFrame_snap (c : SkipCause) (s : State) :
    (skipFrame c s).snap = s.snap := rfl
@[simp] theorem skipFrame_cfgCopy (c : SkipCause) (s : State) :
    (skipFrame c s).cfgCopy = s.cfgCopy := rfl
@[simp] theorem skipFrame_geom (c : SkipCause) (s : State) :
    (skipFrame c s).geom = s.geom := rfl
@[simp] theorem skipFrame_interlace (c : SkipCause) (s : State) :
    (skipFrame c s).interlace = s.interlace := rfl
@[simp] theorem skipFrame_warned (c : SkipCause) (s : State) :
    (skipFrame c s).warned = s.warned := rfl
@[simp] theorem skipFrame_lastIntent (c : SkipCause) (s : State) :
    (skipFrame c s).lastIntent = s.lastIntent := rfl
@[simp] theorem skipFrame_snapreq (c : SkipCause) (s : State) :
    (skipFrame c s).snapreq = s.snapreq := rfl
@[simp] theorem skipFrame_prescale (c : SkipCause) (s : State) :
    (skipFrame c s).prescale = s.prescale := rfl
@[simp] theorem skipFrame_fault (c : SkipCause) (s : State) :
    (skipFrame c s).fault = s.fault := rfl
@[simp] theorem skipFrame_disp (c : SkipCause) (s : State) :
    (skipFrame c s).disp = s.disp := rfl
@[simp] theorem skipFrame_workers (c : SkipCause) (s : State) :
    (skipFrame c s).workers = s.workers := rfl
@[simp] theorem skipFrame_me (c : SkipCause) (s : State) :
    (skipFrame c s).me = s.me := rfl
@[simp] theorem skipFrame_seq (c : SkipCause) (s : State) :
    (skipFrame c s).seq = [] := rfl
@[simp] theorem skipFrame_desc (c : SkipCause) (s : State) :
    (skipFrame c s).desc = s.desc := rfl
@[simp] theorem skipFrame_bmp (c : SkipCause) (s : State) :
    (skipFrame c s).bmp = s.bmp := rfl
@[simp] theorem skipFrame_ret (c : SkipCause) (s : State) :
    (skipFrame c s).ret = s.ret := rfl
@[simp] theorem skipFrame_outcome (c : SkipCause) (s : State) :
    (skipFrame c s).outcome = some (.skip c) := rfl
@[simp] theorem skipFrame_out (c : SkipCause) (s : State) :
    (skipFrame c s).out = s.out := rfl
@[simp] theorem skipFrame_tick (c : SkipCause) (s : State) :
    (skipFrame c s).tick = s.tick := rfl

/-! ## `warn`, field by field -/

@[simp] theorem warn_regs (c : WarnCause) (info : Word) (s : State) :
    (warn c info s).regs = s.regs := rfl
@[simp] theorem warn_mem (c : WarnCause) (info : Word) (s : State) :
    (warn c info s).mem = s.mem := rfl
@[simp] theorem warn_aux (c : WarnCause) (info : Word) (s : State) :
    (warn c info s).aux = s.aux := rfl
@[simp] theorem warn_memLimit (c : WarnCause) (info : Word) (s : State) :
    (warn c info s).memLimit = s.memLimit := rfl
@[simp] theorem warn_zbOrigin (c : WarnCause) (info : Word) (s : State) :
    (warn c info s).zbOrigin = s.zbOrigin := rfl
@[simp] theorem warn_noise (c : WarnCause) (info : Word) (s : State) :
    (warn c info s).noise = s.noise := rfl
@[simp] theorem warn_host (c : WarnCause) (info : Word) (s : State) :
    (warn c info s).host = s.host := rfl
@[simp] theorem warn_env (c : WarnCause) (info : Word) (s : State) :
    (warn c info s).env = s.env := rfl
@[simp] theorem warn_cfg (c : WarnCause) (info : Word) (s : State) :
    (warn c info s).cfg = s.cfg := rfl
@[simp] theorem warn_phase (c : WarnCause) (info : Word) (s : State) :
    (warn c info s).phase = s.phase := rfl
@[simp] theorem warn_snap (c : WarnCause) (info : Word) (s : State) :
    (warn c info s).snap = s.snap := rfl
@[simp] theorem warn_cfgCopy (c : WarnCause) (info : Word) (s : State) :
    (warn c info s).cfgCopy = s.cfgCopy := rfl
@[simp] theorem warn_geom (c : WarnCause) (info : Word) (s : State) :
    (warn c info s).geom = s.geom := rfl
@[simp] theorem warn_interlace (c : WarnCause) (info : Word) (s : State) :
    (warn c info s).interlace = s.interlace := rfl
@[simp] theorem warn_warned (c : WarnCause) (info : Word) (s : State) :
    (warn c info s).warned = s.warned := rfl
@[simp] theorem warn_lastIntent (c : WarnCause) (info : Word) (s : State) :
    (warn c info s).lastIntent = s.lastIntent := rfl
@[simp] theorem warn_snapreq (c : WarnCause) (info : Word) (s : State) :
    (warn c info s).snapreq = s.snapreq := rfl
@[simp] theorem warn_prescale (c : WarnCause) (info : Word) (s : State) :
    (warn c info s).prescale = s.prescale := rfl
@[simp] theorem warn_fault (c : WarnCause) (info : Word) (s : State) :
    (warn c info s).fault = s.fault := rfl
@[simp] theorem warn_disp (c : WarnCause) (info : Word) (s : State) :
    (warn c info s).disp = s.disp := rfl
@[simp] theorem warn_workers (c : WarnCause) (info : Word) (s : State) :
    (warn c info s).workers = s.workers := rfl
@[simp] theorem warn_me (c : WarnCause) (info : Word) (s : State) :
    (warn c info s).me = s.me := rfl
@[simp] theorem warn_seq (c : WarnCause) (info : Word) (s : State) :
    (warn c info s).seq = s.seq := rfl
@[simp] theorem warn_desc (c : WarnCause) (info : Word) (s : State) :
    (warn c info s).desc = s.desc := rfl
@[simp] theorem warn_bmp (c : WarnCause) (info : Word) (s : State) :
    (warn c info s).bmp = s.bmp := rfl
@[simp] theorem warn_ret (c : WarnCause) (info : Word) (s : State) :
    (warn c info s).ret = s.ret := rfl
@[simp] theorem warn_outcome (c : WarnCause) (info : Word) (s : State) :
    (warn c info s).outcome = s.outcome := rfl
@[simp] theorem warn_out (c : WarnCause) (info : Word) (s : State) :
    (warn c info s).out = s.out ++ [.report .warning (warnCode c) info] := rfl
@[simp] theorem warn_tick (c : WarnCause) (info : Word) (s : State) :
    (warn c info s).tick = s.tick := rfl

/-! ## `issue`, field by field -/

@[simp] theorem issue_regs (ops : List SeqOp) (s : State) :
    (issue ops s).regs = s.regs := rfl
@[simp] theorem issue_mem (ops : List SeqOp) (s : State) :
    (issue ops s).mem = s.mem := rfl
@[simp] theorem issue_aux (ops : List SeqOp) (s : State) :
    (issue ops s).aux = s.aux := rfl
@[simp] theorem issue_memLimit (ops : List SeqOp) (s : State) :
    (issue ops s).memLimit = s.memLimit := rfl
@[simp] theorem issue_zbOrigin (ops : List SeqOp) (s : State) :
    (issue ops s).zbOrigin = s.zbOrigin := rfl
@[simp] theorem issue_noise (ops : List SeqOp) (s : State) :
    (issue ops s).noise = s.noise := rfl
@[simp] theorem issue_host (ops : List SeqOp) (s : State) :
    (issue ops s).host = s.host := rfl
@[simp] theorem issue_env (ops : List SeqOp) (s : State) :
    (issue ops s).env = s.env := rfl
@[simp] theorem issue_cfg (ops : List SeqOp) (s : State) :
    (issue ops s).cfg = s.cfg := rfl
@[simp] theorem issue_phase (ops : List SeqOp) (s : State) :
    (issue ops s).phase = s.phase := rfl
@[simp] theorem issue_snap (ops : List SeqOp) (s : State) :
    (issue ops s).snap = s.snap := rfl
@[simp] theorem issue_cfgCopy (ops : List SeqOp) (s : State) :
    (issue ops s).cfgCopy = s.cfgCopy := rfl
@[simp] theorem issue_geom (ops : List SeqOp) (s : State) :
    (issue ops s).geom = s.geom := rfl
@[simp] theorem issue_interlace (ops : List SeqOp) (s : State) :
    (issue ops s).interlace = s.interlace := rfl
@[simp] theorem issue_warned (ops : List SeqOp) (s : State) :
    (issue ops s).warned = s.warned := rfl
@[simp] theorem issue_lastIntent (ops : List SeqOp) (s : State) :
    (issue ops s).lastIntent = s.lastIntent := rfl
@[simp] theorem issue_snapreq (ops : List SeqOp) (s : State) :
    (issue ops s).snapreq = s.snapreq := rfl
@[simp] theorem issue_prescale (ops : List SeqOp) (s : State) :
    (issue ops s).prescale = s.prescale := rfl
@[simp] theorem issue_fault (ops : List SeqOp) (s : State) :
    (issue ops s).fault = s.fault := rfl
@[simp] theorem issue_disp (ops : List SeqOp) (s : State) :
    (issue ops s).disp = s.disp := rfl
@[simp] theorem issue_workers (ops : List SeqOp) (s : State) :
    (issue ops s).workers = s.workers := rfl
@[simp] theorem issue_me (ops : List SeqOp) (s : State) :
    (issue ops s).me = s.me := rfl
@[simp] theorem issue_seq (ops : List SeqOp) (s : State) :
    (issue ops s).seq = ops ++ s.seq := rfl
@[simp] theorem issue_desc (ops : List SeqOp) (s : State) :
    (issue ops s).desc = s.desc := rfl
@[simp] theorem issue_bmp (ops : List SeqOp) (s : State) :
    (issue ops s).bmp = s.bmp := rfl
@[simp] theorem issue_ret (ops : List SeqOp) (s : State) :
    (issue ops s).ret = s.ret := rfl
@[simp] theorem issue_outcome (ops : List SeqOp) (s : State) :
    (issue ops s).outcome = s.outcome := rfl
@[simp] theorem issue_out (ops : List SeqOp) (s : State) :
    (issue ops s).out = s.out := rfl
@[simp] theorem issue_tick (ops : List SeqOp) (s : State) :
    (issue ops s).tick = s.tick := rfl

/-! ## `withWorker`, field by field -/

@[simp] theorem withWorker_regs (s : State) (w : Worker) :
    (s.withWorker w).regs = s.regs := rfl
@[simp] theorem withWorker_mem (s : State) (w : Worker) :
    (s.withWorker w).mem = s.mem := rfl
@[simp] theorem withWorker_aux (s : State) (w : Worker) :
    (s.withWorker w).aux = s.aux := rfl
@[simp] theorem withWorker_memLimit (s : State) (w : Worker) :
    (s.withWorker w).memLimit = s.memLimit := rfl
@[simp] theorem withWorker_zbOrigin (s : State) (w : Worker) :
    (s.withWorker w).zbOrigin = s.zbOrigin := rfl
@[simp] theorem withWorker_noise (s : State) (w : Worker) :
    (s.withWorker w).noise = s.noise := rfl
@[simp] theorem withWorker_host (s : State) (w : Worker) :
    (s.withWorker w).host = s.host := rfl
@[simp] theorem withWorker_env (s : State) (w : Worker) :
    (s.withWorker w).env = s.env := rfl
@[simp] theorem withWorker_cfg (s : State) (w : Worker) :
    (s.withWorker w).cfg = s.cfg := rfl
@[simp] theorem withWorker_phase (s : State) (w : Worker) :
    (s.withWorker w).phase = s.phase := rfl
@[simp] theorem withWorker_snap (s : State) (w : Worker) :
    (s.withWorker w).snap = s.snap := rfl
@[simp] theorem withWorker_cfgCopy (s : State) (w : Worker) :
    (s.withWorker w).cfgCopy = s.cfgCopy := rfl
@[simp] theorem withWorker_geom (s : State) (w : Worker) :
    (s.withWorker w).geom = s.geom := rfl
@[simp] theorem withWorker_interlace (s : State) (w : Worker) :
    (s.withWorker w).interlace = s.interlace := rfl
@[simp] theorem withWorker_warned (s : State) (w : Worker) :
    (s.withWorker w).warned = s.warned := rfl
@[simp] theorem withWorker_lastIntent (s : State) (w : Worker) :
    (s.withWorker w).lastIntent = s.lastIntent := rfl
@[simp] theorem withWorker_snapreq (s : State) (w : Worker) :
    (s.withWorker w).snapreq = s.snapreq := rfl
@[simp] theorem withWorker_prescale (s : State) (w : Worker) :
    (s.withWorker w).prescale = s.prescale := rfl
@[simp] theorem withWorker_fault (s : State) (w : Worker) :
    (s.withWorker w).fault = s.fault := rfl
@[simp] theorem withWorker_disp (s : State) (w : Worker) :
    (s.withWorker w).disp = s.disp := rfl
@[simp] theorem withWorker_workers (s : State) (w : Worker) :
    (s.withWorker w).workers = s.workers.set s.me w := rfl
@[simp] theorem withWorker_me (s : State) (w : Worker) :
    (s.withWorker w).me = s.me := rfl
@[simp] theorem withWorker_seq (s : State) (w : Worker) :
    (s.withWorker w).seq = s.seq := rfl
@[simp] theorem withWorker_desc (s : State) (w : Worker) :
    (s.withWorker w).desc = s.desc := rfl
@[simp] theorem withWorker_bmp (s : State) (w : Worker) :
    (s.withWorker w).bmp = s.bmp := rfl
@[simp] theorem withWorker_ret (s : State) (w : Worker) :
    (s.withWorker w).ret = s.ret := rfl
@[simp] theorem withWorker_outcome (s : State) (w : Worker) :
    (s.withWorker w).outcome = s.outcome := rfl
@[simp] theorem withWorker_out (s : State) (w : Worker) :
    (s.withWorker w).out = s.out := rfl
@[simp] theorem withWorker_tick (s : State) (w : Worker) :
    (s.withWorker w).tick = s.tick := rfl

end Sys2Proof.Machine
end

