-- ==== Sys2Proof/Laws/PerInstr.lean ====
section
/-! SUPPORT. What holds of every operation as syntax, one lemma per constructor of `Instr`: its row
of the operation map is the one its encoding names, and an operation that a word selects is well
formed (30_encoding.md R120, R136, R141). -/

namespace Sys2Proof.Laws

/-- The rows of the operation map that select an operation: their stages and matches. -/
def TableRow.inMap (i : Instr) : List (Stage × ModeWord) :=
  (modeRows.filter (·.instr == i)).map fun r => (r.stage, r.value)

/-- The rows of the operation map that the operation's encoding names. -/
def TableRow.encoded (i : Instr) : List (Stage × ModeWord) :=
  match encode i with
  | .mode st m => [(st, m)]
  | .cmd _ _ => []
  | .seq => []

/-- A `MODE` operation has one row of the operation map, the one its encoding names, and a `CMD` or
`SEQ` operation has none; an operation that a word selects is well formed. -/
def TableRow.Statement (i : Instr) : Prop :=
  TableRow.inMap i = TableRow.encoded i ∧ (encode i ≠ .seq → i.wf = true)

theorem TableRow.dispInit : TableRow.Statement .dispInit := ⟨rfl, fun _ => rfl⟩
theorem TableRow.dispWcount : TableRow.Statement .dispWcount := ⟨rfl, fun _ => rfl⟩
theorem TableRow.dispTeardown : TableRow.Statement .dispTeardown := ⟨rfl, fun _ => rfl⟩
theorem TableRow.cfgwr (arg : BitVec 24) : TableRow.Statement (.cfgwr arg) := ⟨rfl, fun _ => rfl⟩
theorem TableRow.update : TableRow.Statement .update := ⟨rfl, fun _ => rfl⟩
theorem TableRow.snapreq (path : List Byte) : TableRow.Statement (.snapreq path) :=
  ⟨rfl, fun _ => rfl⟩
theorem TableRow.pipeFilt : TableRow.Statement .pipeFilt := ⟨rfl, fun _ => rfl⟩
theorem TableRow.fastColor16 : TableRow.Statement .fastColor16 := ⟨rfl, fun _ => rfl⟩
theorem TableRow.fastColor32 : TableRow.Statement .fastColor32 := ⟨rfl, fun _ => rfl⟩
theorem TableRow.fastDepth : TableRow.Statement .fastDepth := ⟨rfl, fun _ => rfl⟩
theorem TableRow.fastCvg : TableRow.Statement .fastCvg := ⟨rfl, fun _ => rfl⟩
theorem TableRow.fetch16 : TableRow.Statement .fetch16 := ⟨rfl, fun _ => rfl⟩
theorem TableRow.fetch32 : TableRow.Statement .fetch32 := ⟨rfl, fun _ => rfl⟩
theorem TableRow.fetchBlank : TableRow.Statement .fetchBlank := ⟨rfl, fun _ => rfl⟩
theorem TableRow.aaResampExtraAlways : TableRow.Statement .aaResampExtraAlways :=
  ⟨rfl, fun _ => rfl⟩
theorem TableRow.aaResampExtra : TableRow.Statement .aaResampExtra := ⟨rfl, fun _ => rfl⟩
theorem TableRow.aaResampOnly : TableRow.Statement .aaResampOnly := ⟨rfl, fun _ => rfl⟩
theorem TableRow.aaReplicate : TableRow.Statement .aaReplicate := ⟨rfl, fun _ => rfl⟩
theorem TableRow.restoreOn : TableRow.Statement .restoreOn := ⟨rfl, fun _ => rfl⟩
theorem TableRow.divotOn : TableRow.Statement .divotOn := ⟨rfl, fun _ => rfl⟩
theorem TableRow.gammaOff : TableRow.Statement .gammaOff := ⟨rfl, fun _ => rfl⟩
theorem TableRow.gammaDither : TableRow.Statement .gammaDither := ⟨rfl, fun _ => rfl⟩
theorem TableRow.gammaTable : TableRow.Statement .gammaTable := ⟨rfl, fun _ => rfl⟩
theorem TableRow.gammaTableDither : TableRow.Statement .gammaTableDither := ⟨rfl, fun _ => rfl⟩
theorem TableRow.fieldInterlaced : TableRow.Statement .fieldInterlaced := ⟨rfl, fun _ => rfl⟩
theorem TableRow.composeFull : TableRow.Statement .composeFull := ⟨rfl, fun _ => rfl⟩
theorem TableRow.composeCrop : TableRow.Statement .composeCrop := ⟨rfl, fun _ => rfl⟩
theorem TableRow.widescreen : TableRow.Statement .widescreen := ⟨rfl, fun _ => rfl⟩
theorem TableRow.reset : TableRow.Statement .reset := ⟨rfl, fun h => absurd rfl h⟩
theorem TableRow.dispRun (task : Task) : TableRow.Statement (.dispRun task) :=
  ⟨rfl, fun h => absurd rfl h⟩
theorem TableRow.resSnap : TableRow.Statement .resSnap := ⟨rfl, fun h => absurd rfl h⟩
theorem TableRow.resExtent : TableRow.Statement .resExtent := ⟨rfl, fun h => absurd rfl h⟩
theorem TableRow.resCtrl : TableRow.Statement .resCtrl := ⟨rfl, fun h => absurd rfl h⟩
theorem TableRow.resTv : TableRow.Statement .resTv := ⟨rfl, fun h => absurd rfl h⟩
theorem TableRow.resHporch : TableRow.Statement .resHporch := ⟨rfl, fun h => absurd rfl h⟩
theorem TableRow.resHclamp0 : TableRow.Statement .resHclamp0 := ⟨rfl, fun h => absurd rfl h⟩
theorem TableRow.resField : TableRow.Statement .resField := ⟨rfl, fun h => absurd rfl h⟩
theorem TableRow.resVporch : TableRow.Statement .resVporch := ⟨rfl, fun h => absurd rfl h⟩
theorem TableRow.resCanvas : TableRow.Statement .resCanvas := ⟨rfl, fun h => absurd rfl h⟩
theorem TableRow.resVactive : TableRow.Statement .resVactive := ⟨rfl, fun h => absurd rfl h⟩
theorem TableRow.resBorder : TableRow.Statement .resBorder := ⟨rfl, fun h => absurd rfl h⟩
theorem TableRow.resSkip : TableRow.Statement .resSkip := ⟨rfl, fun h => absurd rfl h⟩
theorem TableRow.resPtr : TableRow.Statement .resPtr := ⟨rfl, fun h => absurd rfl h⟩
theorem TableRow.resFit : TableRow.Statement .resFit := ⟨rfl, fun h => absurd rfl h⟩
theorem TableRow.taskFilt (wid : Nat) : TableRow.Statement (.taskFilt wid) :=
  ⟨rfl, fun h => absurd rfl h⟩
theorem TableRow.scanline (y : Nat) : TableRow.Statement (.scanline y) :=
  ⟨rfl, fun h => absurd rfl h⟩
theorem TableRow.column (y x : Nat) : TableRow.Statement (.column y x) :=
  ⟨rfl, fun h => absurd rfl h⟩
theorem TableRow.cacheNew : TableRow.Statement .cacheNew := ⟨rfl, fun h => absurd rfl h⟩
theorem TableRow.rawNeed (cache : SrcRow) (base c : Int) :
    TableRow.Statement (.rawNeed cache base c) := ⟨rfl, fun h => absurd rfl h⟩
theorem TableRow.divNeed (dcache rcache : SrcRow) (c : Int) :
    TableRow.Statement (.divNeed dcache rcache c) := ⟨rfl, fun h => absurd rfl h⟩
theorem TableRow.needs (cur : Int) : TableRow.Statement (.needs cur) := ⟨rfl, fun h => absurd rfl h⟩
theorem TableRow.sel (row : SrcRow) (k : Int) : TableRow.Statement (.sel row k) :=
  ⟨rfl, fun h => absurd rfl h⟩
theorem TableRow.blend (cur : Int) (xfrac yfrac : BitVec 5) :
    TableRow.Statement (.blend cur xfrac yfrac) := ⟨rfl, fun h => absurd rfl h⟩
theorem TableRow.lerp3 (cur : Int) (xfrac yfrac : BitVec 5) :
    TableRow.Statement (.lerp3 cur xfrac yfrac) := ⟨rfl, fun h => absurd rfl h⟩
theorem TableRow.write (y x : Nat) (v : Word) : TableRow.Statement (.write y x v) :=
  ⟨rfl, fun h => absurd rfl h⟩
theorem TableRow.fetch (num : Int) : TableRow.Statement (.fetch num) := ⟨rfl, fun h => absurd rfl h⟩
theorem TableRow.aaFilter (fmt : Fmt) (rgb : RGB) (num : Int) (cvg : BitVec 3) :
    TableRow.Statement (.aaFilter fmt rgb num cvg) := ⟨rfl, fun h => absurd rfl h⟩
theorem TableRow.restoreFilter (fmt : Fmt) (rgb : RGB) (num : Int) :
    TableRow.Statement (.restoreFilter fmt rgb num) := ⟨rfl, fun h => absurd rfl h⟩
theorem TableRow.divot (left centre right : CCVG) : TableRow.Statement (.divot left centre right) :=
  ⟨rfl, fun h => absurd rfl h⟩
theorem TableRow.lerp (a b : CCVG) (w : BitVec 5) : TableRow.Statement (.lerp a b w) :=
  ⟨rfl, fun h => absurd rfl h⟩
theorem TableRow.gamma (rgb : RGB) (y x : Nat) : TableRow.Statement (.gamma rgb y x) :=
  ⟨rfl, fun h => absurd rfl h⟩
theorem TableRow.fastGeom : TableRow.Statement .fastGeom := ⟨rfl, fun h => absurd rfl h⟩
theorem TableRow.fastFit : TableRow.Statement .fastFit := ⟨rfl, fun h => absurd rfl h⟩
theorem TableRow.taskFast (wid : Nat) : TableRow.Statement (.taskFast wid) :=
  ⟨rfl, fun h => absurd rfl h⟩
theorem TableRow.modesw : TableRow.Statement .modesw := ⟨rfl, fun h => absurd rfl h⟩
theorem TableRow.composeFast : TableRow.Statement .composeFast := ⟨rfl, fun h => absurd rfl h⟩
theorem TableRow.sink : TableRow.Statement .sink := ⟨rfl, fun h => absurd rfl h⟩
theorem TableRow.snapshot : TableRow.Statement .snapshot := ⟨rfl, fun h => absurd rfl h⟩
theorem TableRow.bmp : TableRow.Statement .bmp := ⟨rfl, fun h => absurd rfl h⟩
theorem TableRow.present : TableRow.Statement .present := ⟨rfl, fun h => absurd rfl h⟩

end Sys2Proof.Laws
end

