-- ==== Sys2Proof/Laws/Resolver.lean ====
section
/-! SUPPORT. What each step of the resolver can do, said once (42_resolver.md). -/

namespace Sys2Proof.Machine

/-- Every colour type is recognised (30_encoding.md R142 (a)). -/
@[simp] theorem recognised_true (c : ColorType) : recognised c = true := by cases c <;> rfl

/-- `G.has_data` is bit 1 of the control word (30_encoding.md R123). -/
theorem hasData_decodeCtrl (w : Word) : hasData (decodeCtrl w).ctype = w.getLsbD 1 := by
  have h : ∀ t : BitVec 2, hasData (decodeColorType t) = t.getLsbD 1 := by decide
  simp only [decodeCtrl, h]
  simp

/-- The control word is read from the snapshot, which no write of another field changes. -/
theorem State.ctrl_congr {s t : State} (h : s.snap = t.snap) : s.ctrl = t.ctrl := by
  unfold State.ctrl
  rw [h]

/-- Everything `RES.CTRL` can do (R232): it always goes on, it sets `G.has_data`, and it touches
nothing else but the warning flags and the output. -/
theorem resolveCtrl_go (s : State) : ∃ t, resolveCtrl s = .go t ∧
    t = ((s.withGeom { s.geom with hasData := hasData s.ctrl.ctype }).withWarned t.warned).withOut
      t.out := by
  unfold resolveCtrl
  rw [if_pos (recognised_true _)]
  refine ⟨_, rfl, ?_⟩
  simp only
  split <;> split <;> (try rw [warnOnceNolerp16_eq]) <;> (try rw [warnOnceVbus_eq]) <;> rfl

/-- Everything `RES.VACTIVE` can do (R244). -/
theorem resolveVactive_cases (s : State) :
    let v : Int := s.geom.vSync - vOffset s.geom
    (625 < v ∧ resolveVactive s
      = .ended (raiseFatal .syncTooBig s.geom.vSync (s.withGeom { s.geom with vactive := v }))) ∨
    (v ≤ 0 ∧ resolveVactive s
      = .ended (skipFrame .noActiveLines (s.withGeom { s.geom with vactive := v }))) ∨
    (0 < v ∧ v ≤ 625 ∧ resolveVactive s
      = .go (s.withGeom { s.geom with vactive := if s.ctrl.serrate then v else v / 2 })) := by
  intro v
  unfold resolveVactive
  simp only [Config.maxH]
  by_cases h : 625 < v
  · exact .inl ⟨h, if_pos h⟩
  · refine .inr ?_
    rw [if_neg h]
    by_cases h0 : v ≤ 0
    · exact .inl ⟨h0, if_pos h0⟩
    · refine .inr ⟨by omega, by omega, ?_⟩
      rw [if_neg h0]
      cases hs : s.ctrl.serrate
      · rfl
      · rfl

/-- Everything `RES.SKIP` can do (R246). -/
theorem resolveSkip_cases (s : State) :
    (∃ c, resolveSkip s = .ended (skipFrame c s)) ∨
    (¬(s.ctrl.serrate = false ∧ s.geom.hasData = false) ∧ 0 < s.geom.hres ∧ 0 < s.geom.vres ∧
      s.geom.origin ≠ 0 ∧ resolveSkip s = .go s) := by
  unfold resolveSkip
  split
  · exact .inl ⟨_, rfl⟩
  · split
    · exact .inl ⟨_, rfl⟩
    · split
      · exact .inl ⟨_, rfl⟩
      · exact .inr ⟨‹_›, by omega, by omega, ‹_›, rfl⟩

/-- Everything `RES.FIT` can do (R248). -/
theorem resolveFit_cases (s : State) :
    (resolveFit s = .ended (raiseFatal .prescaleOverflow (s.geom.vStart + s.geom.vres) s)) ∨
    ((s.ctrl.serrate = true → 2 * (s.geom.vStart + s.geom.vres) ≤ 625) ∧ resolveFit s = .go s) := by
  unfold resolveFit
  simp only [Config.maxH]
  split
  · exact .inl rfl
  · exact .inr ⟨fun h => by simp_all, rfl⟩

/-! ## Flows -/

@[simp] theorem Flow.bind_go (s : State) (f : State → Flow) : (Flow.go s).bind f = f s := rfl
@[simp] theorem Flow.bind_ended (s : State) (f : State → Flow) :
    (Flow.ended s).bind f = .ended s := rfl
@[simp] theorem Flow.state_go (s : State) : (Flow.go s).state = s := rfl
@[simp] theorem Flow.state_ended (s : State) : (Flow.ended s).state = s := rfl

/-! ## The accepted frame -/

/-- Everything `RES.FIELD` does to the geometry: the two field flags, the lower field only in an
interlaced frame (R236). -/
theorem resolveField_geom (s : State) : ∃ v l : Bool,
    (resolveField s).geom = { s.geom with validInterlace := v, lowerfield := l } ∧
    (resolveField s).snap = s.snap ∧ (l = true → s.ctrl.serrate = true) := by
  unfold resolveField validInterlace
  split
  · rename_i h
    exact ⟨_, _, rfl, rfl, fun _ => (Bool.and_eq_true _ _ ▸ h).2⟩
  · exact ⟨_, _, rfl, rfl, fun h => by cases h⟩

/-- What the steps from `RES.TV` to `RES.CANVAS` make of the geometry (R233 to R243). -/
theorem resolveMiddle_geom (u : State) : ∃ v l : Bool,
    (resolveCanvas (resolveVporch (resolveField (resolveHclamp0 (resolveHporch
      (resolveTv u)))))).geom = canvasVOf (canvasHOf (vporchOf
        { hclampOf { u.geom with
            ispal := isPal u.geom.vSync
            hStart := u.geom.hStart - (if isPal u.geom.vSync then 128 else 108) } with
          validInterlace := v, lowerfield := l })) ∧
    (resolveCanvas (resolveVporch (resolveField (resolveHclamp0 (resolveHporch
      (resolveTv u)))))).snap = u.snap ∧
    (l = true → u.ctrl.serrate = true) := by
  obtain ⟨v, l, hg, hs, hl⟩ := resolveField_geom (resolveHclamp0 (resolveHporch (resolveTv u)))
  refine ⟨v, l, ?_, ?_, hl⟩
  · simp only [resolveCanvas, resolveVporch, State.withGeom_geom, hg]
    rfl
  · simp only [resolveCanvas, resolveVporch, State.withGeom_snap, hs]
    rfl

/-- What the steps from `RES.VACTIVE` to `RES.FIT` have checked and written when they go on
(R244 to R248). -/
theorem resolveTail_go {b t : State}
    (h : ((resolveVactive b).bind fun s => (resolveSkip (resolveBorder s)).bind fun s =>
      resolveFit (resolvePtr s)) = .go t) :
    0 < (b.geom.vSync : Int) - vOffset b.geom ∧ (b.geom.vSync : Int) - vOffset b.geom ≤ 625 ∧
    0 < b.geom.hres ∧ 0 < b.geom.vres ∧ b.geom.origin ≠ 0 ∧
    (b.ctrl.serrate = true → 2 * (b.geom.vStart + b.geom.vres) ≤ 625) ∧ t.snap = b.snap ∧
    t.geom = { b.geom with
      vactive := if b.ctrl.serrate then (b.geom.vSync : Int) - vOffset b.geom
        else ((b.geom.vSync : Int) - vOffset b.geom) / 2
      minhpass := if b.geom.hStartClamped then 0 else 8
      maxhpass := if b.geom.hresClamped then b.geom.hres else b.geom.hres - 7
      linecount := linecountOf b.ctrl
      prescalePtr := b.geom.vStart * linecountOf b.ctrl + b.geom.hStart
        + (if b.geom.lowerfield then 640 else 0) } := by
  rcases resolveVactive_cases b with ⟨-, c⟩ | ⟨-, c⟩ | ⟨c1, c2, c⟩
  · rw [c] at h; cases h
  · rw [c] at h; cases h
  rw [c, Flow.bind_go] at h
  rcases resolveSkip_cases (resolveBorder (b.withGeom { b.geom with
      vactive := if b.ctrl.serrate then (b.geom.vSync : Int) - vOffset b.geom
        else ((b.geom.vSync : Int) - vOffset b.geom) / 2 })) with ⟨e, e1⟩ | ⟨-, e1, e2, e3, e4⟩
  · rw [e1] at h; cases h
  rw [e4, Flow.bind_go] at h
  simp only [resolveBorder, State.withGeom_geom] at e1 e2 e3
  rcases resolveFit_cases (resolvePtr (resolveBorder (b.withGeom { b.geom with
      vactive := if b.ctrl.serrate then (b.geom.vSync : Int) - vOffset b.geom
        else ((b.geom.vSync : Int) - vOffset b.geom) / 2 }))) with f | ⟨f1, f2⟩
  · rw [f] at h; cases h
  rw [f2] at h
  simp only [resolvePtr, resolveBorder, State.withGeom_geom, State.withGeom_withGeom, State.ctrl,
    State.withGeom_snap] at f1
  injection h with h
  subst h
  refine ⟨c1, c2, e1, e2, e3, f1, rfl, ?_⟩
  simp only [resolvePtr, resolveBorder, State.withGeom_geom, State.ctrl, State.withGeom_snap,
    Config.maxW, Config.borderLeft, Config.borderRight]
  rfl

end Sys2Proof.Machine
end

