-- ==== Sys2Proof/Laws/Step.lean ====
section
/-! SUPPORT. What a step can do, said once: an inversion lemma for each level of the step, and for
the operations that touch only the worker in turn and the prescale buffer. -/

namespace Sys2Proof.Machine

/-! ## The step -/

/-- Everything a step that answers a next state can be: a reset, the failure of a worker, or a move
of the block, with or without a quiet event in front of it. -/
theorem step_next {s t : State} (h : step s = .next t) :
    (∃ r, s.env = .reset :: r ∧ exec .reset (s.withEnv r) = .next t) ∨
    (∃ wid r, s.env = .workerFailure wid :: r ∧ t = workerFailure wid (s.withEnv r)) ∨
    (∃ r, (s.env = r ∨ s.env = .quiet :: r) ∧ machineStep (s.withEnv r) = .next t) := by
  unfold step envStep at h
  split at h
  · rename_i e
    exact .inr (.inr ⟨[], .inl e, by rw [← e, State.withEnv_self]; exact h⟩)
  · exact .inr (.inr ⟨_, .inr ‹_›, h⟩)
  · exact .inl ⟨_, ‹_›, h⟩
  · injection h with h
    exact .inr (.inl ⟨_, _, ‹_›, h.symm⟩)

/-- Everything a move of the block can be: the host's turn of a halted or an idle block, a step of
the round in flight, or the engine's next issued operation. -/
theorem machineStep_next {s t : State} (h : machineStep s = .next t) :
    (s.phase = .halted ∧ hostStep s = .next t) ∨
    (s.phase ≠ .halted ∧ s.disp.state = .running ∧ roundStep s = .next t) ∨
    (s.phase ≠ .halted ∧ s.disp.state ≠ .running ∧ ∃ op r, s.seq = op :: r ∧
      runOp op (s.withSeq r) = .next t) ∨
    (s.phase = .idle ∧ s.disp.state ≠ .running ∧ s.seq = [] ∧ hostStep s = .next t) := by
  unfold machineStep at h
  split at h
  · exact .inl ⟨‹_›, h⟩
  · split at h
    · exact .inr (.inl ⟨‹_›, ‹_›, h⟩)
    · split at h
      · exact .inr (.inr (.inl ⟨‹_›, ‹_›, _, _, ‹_›, h⟩))
      · split at h
        · exact .inr (.inr (.inr ⟨‹_›, ‹_›, ‹_›, h⟩))
        · cases h

/-- Everything a step of a round can be: the barrier, or a step of one worker. -/
theorem roundStep_next {s t : State} (h : roundStep s = .next t) :
    (unfinished s.disp.wstat = [] ∧ (∀ st ∈ s.disp.wstat, st = .done) ∧ t = joinRound s) ∨
    (∃ i k, workerStep i (s.withTick k) = .next t) := by
  unfold roundStep at h
  split at h
  · split at h
    · rename_i h1 h2
      injection h with h
      exact .inl ⟨h1, by simpa using h2, h.symm⟩
    · cases h
  · exact .inr ⟨_, s.tick, by rw [State.withTick_self]; exact h⟩
  · exact .inr ⟨_, _, h⟩

/-- Everything a step of a worker can be: its start, its end, or its next issued operation. -/
theorem workerStep_next {s t : State} {i : Nat} (h : workerStep i s = .next t) :
    ∃ w, s.workers[i]? = some w ∧
      ((s.disp.wstat[i]? = some .pending ∧ t = startWorker (s.withMe i) w) ∨
       (s.disp.wstat[i]? = some .busy ∧ w.seq = [] ∧ t = endWorker (s.withMe i)) ∨
       (s.disp.wstat[i]? = some .busy ∧ ∃ op r, w.seq = op :: r ∧
         runOp op ((s.withMe i).withWorker { w with seq := r }) = .next t)) := by
  obtain ⟨w, hw, h⟩ := onWorker_next h
  refine ⟨w, hw, ?_⟩
  split at h
  · injection h with h
    exact .inl ⟨‹_›, h.symm⟩
  · split at h
    · injection h with h
      exact .inr (.inl ⟨‹_›, ‹_›, h.symm⟩)
    · exact .inr (.inr ⟨‹_›, _, _, ‹_›, h⟩)
  · cases h
  · cases h
  · cases h

/-! ## The worker in turn of a round -/

/-- The workers of a round that still have a step are those that are pending or busy. -/
theorem mem_unfinished {l : List WStat} {i : Nat} :
    i ∈ unfinished l ↔ l[i]? = some .pending ∨ l[i]? = some .busy := by
  simp only [unfinished, List.mem_filter, List.mem_range, Bool.or_eq_true,
    decide_eq_true_eq]
  refine ⟨fun h => h.2, fun h => ⟨?_, h⟩⟩
  rcases h with h | h <;> exact (List.getElem?_eq_some_iff.1 h).1

/-- The free choice changes nothing but its own counter. -/
theorem afterChoice_eq (s : State) : ∃ k, afterChoice s = s.withTick k := by
  unfold afterChoice
  split
  · exact ⟨_, rfl⟩
  · exact ⟨s.tick, (State.withTick_self s).symm⟩

@[simp] theorem afterChoice_disp (s : State) : (afterChoice s).disp = s.disp := by
  obtain ⟨k, h⟩ := afterChoice_eq s
  simp [h]

@[simp] theorem afterChoice_workers (s : State) : (afterChoice s).workers = s.workers := by
  obtain ⟨k, h⟩ := afterChoice_eq s
  simp [h]

/-- The step of a state in which it is a worker's turn is that worker's step. -/
theorem step_of_workerTurn {s : State} {i : Nat} {w : Worker} (h : WorkerTurn s i w) :
    step s = workerStep i (afterChoice s) := by
  obtain ⟨h1, h2, h3, h4, -⟩ := h
  simp only [step, envStep, h1, machineStep, if_neg h2, if_pos h3, roundStep, afterChoice]
  generalize unfinished s.disp.wstat = l at *
  match l with
  | [] => simp at h4
  | [j] =>
    simp only [List.length_singleton, Nat.mod_one, List.getElem?_cons_zero, Option.some.injEq] at h4
    subst h4
    simp
  | j :: k :: r =>
    simp only [List.length_cons, lt_add_iff_pos_left, Nat.zero_lt_succ] at *
    rw [List.getD_eq_getElem?_getD, h4]
    simp

/-- Where one worker alone still has a step, the turn is its. -/
theorem workerTurn_of_one {s : State} {i : Nat} {w : Worker} (h1 : s.env = [])
    (h2 : s.phase ≠ .halted) (h3 : s.disp.state = .running) (h4 : unfinished s.disp.wstat = [i])
    (h5 : s.workers[i]? = some w) : WorkerTurn s i w :=
  ⟨h1, h2, h3, by simp [h4, Nat.mod_one], h5⟩

/-- Where some worker still has a step, one of those that do has the turn. -/
theorem exists_workerTurn {s : State} (h1 : s.env = []) (h2 : s.phase ≠ .halted)
    (h3 : s.disp.state = .running) (h4 : s.workers.length = s.disp.wstat.length)
    (h5 : unfinished s.disp.wstat ≠ []) :
    ∃ i w, WorkerTurn s i w ∧ i ∈ unfinished s.disp.wstat := by
  have hl := Nat.mod_lt (Config.schedule s.tick) (List.length_pos_iff.2 h5)
  have hm := List.getElem_mem hl
  have hi : (unfinished s.disp.wstat)[Config.schedule s.tick % (unfinished s.disp.wstat).length]
      < s.disp.wstat.length := by
    rcases mem_unfinished.1 hm with h | h <;> exact (List.getElem?_eq_some_iff.1 h).1
  exact ⟨_, _, ⟨h1, h2, h3, List.getElem?_eq_getElem hl, List.getElem?_eq_getElem (h4 ▸ hi)⟩, hm⟩

/-! ## The host's turn -/

/-- Everything the host's turn can be: nothing, a command that decodes, or a write of external
state with the host port open. -/
theorem hostStep_next {s t : State} (h : hostStep s = .next t) :
    (s.host = [] ∧ t = s) ∨
    (∃ w path r i, s.host = .command w path :: r ∧ decodeCmd w path = .ok i ∧
      exec i (s.withHost r) = .next t) ∨
    (∃ r rg m a z, s.fault.valid = false ∧ s.phase = .idle ∧
      t = ((((s.withHost r).withRegs rg).withMem m).withAux a).withZbOrigin z ∧
      (m = s.mem ∨ (∃ i v, m = writeHalf s.mem i v) ∨ ∃ j v, m = writeWord s.mem j v) ∧
      (a = s.aux ∨ ∃ i v, a = sparseSet s.aux i v)) := by
  have write : ∀ u v : State, hostWrite u v = .next t →
      u.fault.valid = false ∧ u.phase = .idle ∧ t = v := by
    intro u v h
    obtain ⟨hf, hp, h⟩ := hostPort_next h
    injection h with h
    exact ⟨hf, hp, h.symm⟩
  unfold hostStep at h
  split at h
  · injection h with h
    exact .inl ⟨‹_›, h.symm⟩
  · rename_i a r e
    cases a with
    | command w path =>
      simp only [hostAction] at h
      split at h
      · exact .inr (.inl ⟨w, path, r, _, e, ‹_›, h⟩)
      · cases h
      · cases h
    | reg n v =>
      obtain ⟨hf, hp, rfl⟩ := write _ _ h
      exact .inr (.inr ⟨r, _, s.mem, s.aux, s.zbOrigin, hf, hp, rfl, .inl rfl, .inl rfl⟩)
    | mem16 i v =>
      obtain ⟨hf, hp, rfl⟩ := write _ _ h
      exact .inr (.inr ⟨r, s.regs, _, s.aux, s.zbOrigin, hf, hp, rfl, .inr (.inl ⟨_, _, rfl⟩), .inl rfl⟩)
    | mem32 j v =>
      obtain ⟨hf, hp, rfl⟩ := write _ _ h
      exact .inr (.inr ⟨r, s.regs, _, s.aux, s.zbOrigin, hf, hp, rfl, .inr (.inr ⟨_, _, rfl⟩), .inl rfl⟩)
    | aux i v =>
      obtain ⟨hf, hp, rfl⟩ := write _ _ h
      exact .inr (.inr ⟨r, s.regs, s.mem, _, s.zbOrigin, hf, hp, rfl, .inl rfl, .inr ⟨_, _, rfl⟩⟩)
    | zb v =>
      obtain ⟨hf, hp, rfl⟩ := write _ _ h
      exact .inr (.inr ⟨r, s.regs, s.mem, s.aux, v, hf, hp, rfl, .inl rfl, .inl rfl⟩)

/-- Everything an issued operation can be: the operation itself, the row its stage selects, or one
of the steps that are no operation of the table. -/
theorem runOp_next {op : SeqOp} {s t : State} (h : runOp op s = .next t) :
    (∃ i, op = .op i ∧ exec i s = .next t) ∨
    (∃ st, op = .stage st ∧ ((∃ i, decodeMode st s.mode = .ok i ∧ exec i s = .next t) ∨ t = s)) ∨
    (∃ p, op = .phase p ∧ t = s.withPhase p) ∨
    (∃ y x, op = .fastPixel y x ∧ fastPixel y x s = .next t) ∨
    (op = .snapshotIfPending ∧ (exec .snapshot s = .next t ∨ t = s)) ∨
    (op = .joinWorkers ∧ t = joinWorkers s) ∨
    (op = .finish ∧ t = (s.withPhase .idle).withOutcome (some .ok)) := by
  cases op with
  | op i => exact .inl ⟨i, rfl, h⟩
  | stage st =>
    refine .inr (.inl ⟨st, rfl, ?_⟩)
    simp only [runOp, runStage] at h
    split at h
    · exact .inl ⟨_, ‹_›, h⟩
    · split at h
      · injection h with h
        exact .inr h.symm
      · cases h
  | phase p => injection h with h; exact .inr (.inr (.inl ⟨p, rfl, h.symm⟩))
  | fastPixel y x => exact .inr (.inr (.inr (.inl ⟨y, x, rfl, h⟩)))
  | snapshotIfPending =>
    refine .inr (.inr (.inr (.inr (.inl ⟨rfl, ?_⟩))))
    simp only [runOp] at h
    split at h
    · exact .inl h
    · injection h with h
      exact .inr h.symm
  | joinWorkers => injection h with h; exact .inr (.inr (.inr (.inr (.inr (.inl ⟨rfl, h.symm⟩)))))
  | finish => injection h with h; exact .inr (.inr (.inr (.inr (.inr (.inr ⟨rfl, h.symm⟩)))))

/-! ## A script about to run -/

/-- A script without a `.noise` line fixes no noise. -/
theorem scriptNoise_none {l : List ScriptLine} (h : ∀ g, .noise g ∉ l) : scriptNoise l = none := by
  rw [scriptNoise, List.findSome?_eq_none_iff]
  intro a ha
  cases a with
  | noise g => exact absurd ha (h g)
  | _ => rfl

/-- The lines in front of a script's first `.noise` fix none; it fixes the script's. -/
theorem scriptNoise_append (l : List ScriptLine) (r : List ScriptLine) (f : NoiseFn)
    (h : ∀ g, .noise g ∉ l) : scriptNoise (l ++ .noise f :: r) = some f := by
  rw [scriptNoise, List.findSome?_append, ← scriptNoise, scriptNoise_none h]
  rfl

/-- A `.noise` line places no action and leaves the configuration in force as it is. -/
theorem scriptActions_noise (c : Cfg) (l r : List ScriptLine) (f : NoiseFn) :
    scriptActions c (l ++ .noise f :: r) = scriptActions c (l ++ r) := by
  induction l generalizing c with
  | nil => rfl
  | cons a l ih => simp only [List.cons_append, scriptActions, ih]

/-! ## Which operations a mode word selects -/

/-- A stage selects the operation of one of its rows. -/
theorem decodeMode_ok {st : Stage} {m : ModeWord} {i : Instr} (h : decodeMode st m = .ok i) :
    ∃ r ∈ modeRows, r.stage = st ∧ r.hits m = true ∧ r.instr = i := by
  unfold decodeMode at h
  split at h
  · rename_i r e
    injection h with h
    have hp := List.find?_some e
    simp only [Bool.and_eq_true, beq_iff_eq] at hp
    exact ⟨r, List.mem_of_find?_eq_some e, hp.1, hp.2, h⟩
  · cases h

/-! ## The pixel operations -/

/-- Everything `COLUMN` can do: it changes the worker in turn, whose issued operations stay, and one
word of the prescale buffer, which becomes 0 or a packed pixel (43_pipeline_filtered.md R282). -/
theorem columnPixel_next {s t : State} {y x : Nat} {w : Worker}
    (h : columnPixel y x s w = .next t) :
    ∃ (v : Worker) (c : Word), t = (s.withWorker v).withPrescale
        (sparseSet s.prescale (writeIndex s.geom y x).toNat c) ∧
      v.seq = w.seq ∧ (c = 0 ∨ ∃ rgb, c = pack rgb) ∧
      0 ≤ writeIndex s.geom y x ∧ writeIndex s.geom y x < 400000 := by
  have put : ∀ (v : Worker) (c : Word), v.seq = w.seq → (c = 0 ∨ ∃ rgb, c = pack rgb) →
      writePixel y x c (s.withWorker v) = .next t → ∃ (v : Worker) (c : Word),
        t = (s.withWorker v).withPrescale (sparseSet s.prescale (writeIndex s.geom y x).toNat c) ∧
        v.seq = w.seq ∧ (c = 0 ∨ ∃ rgb, c = pack rgb) ∧
        0 ≤ writeIndex s.geom y x ∧ writeIndex s.geom y x < 400000 := by
    intro v c hv hc h
    rcases writePrescale_cases (writeIndex s.geom y x) c (s.withWorker v) with ⟨a, b, e⟩ | ⟨-, e⟩
    · injection e.symm.trans h with e
      exact ⟨v, c, e.symm, hv, hc, a, b⟩
    · cases e.symm.trans h
  have seq_needs : ∀ (cur : Int) (w0 w1 : Worker), needs cur s w0 = some w1 → w1.seq = w0.seq := by
    intro cur w0 w1 h
    unfold needs divNeed at h
    simp only at h
    split at h
    · simp only [Option.bind_eq_some_iff, Option.map_eq_some_iff] at h
      obtain ⟨w2, ⟨d1, -, rfl⟩, d2, -, rfl⟩ := h
      rfl
    · injection h with h
      subst h
      rfl
  unfold columnPixel at h
  split at h
  · unfold columnVisible at h
    split at h
    · cases h
    · rename_i w1 e
      split at h
      · cases h
      · rename_i c _
        have hs : w1.seq = w.seq :=
          (seq_needs _ (columnLocals s.geom y x w) w1 e).trans rfl
        exact put { w1 with colour := c, rgb := gammaRgb s c.rgb y x } _ hs (.inr ⟨_, rfl⟩) h
  · exact put (columnLocals s.geom y x w) _ rfl (.inl rfl) h

/-- Everything a pixel of the fast task can do, likewise (44_pipeline_fast.md R322). -/
theorem fastPixel_next {s t : State} {y x : Nat} (h : fastPixel y x s = .next t) :
    ∃ (w v : Worker) (rgb : RGB), s.workers[s.me]? = some w ∧
      t = (s.withWorker v).withPrescale
        (sparseSet s.prescale (fastIndex s.geom y x).toNat (pack rgb)) ∧
      v.seq = w.seq ∧ 0 ≤ fastIndex s.geom y x ∧ fastIndex s.geom y x < 400000 := by
  obtain ⟨w, hw, h⟩ := onWorker_next h
  split at h
  · cases h
  · rename_i c e
    rcases writePrescale_cases (fastIndex s.geom y x) (pack (gammaRgb s c y x)) (s.withWorker { w with
      y := y, x := x, num := fastOffset s.geom y x, rgb := gammaRgb s c y x }) with ⟨a, b, e⟩ | ⟨-, e⟩
    · injection e.symm.trans h with e
      exact ⟨w, { w with y := y, x := x, num := fastOffset s.geom y x, rgb := gammaRgb s c y x },
        gammaRgb s c y x, hw, e.symm, rfl, a, b⟩
    · cases e.symm.trans h

/-- The columns between the two borders are visible (42_resolver.md R245). -/
theorem visible_iff {g : Geometry} {x : Nat} :
    visible g x = true ↔ g.minhpass ≤ x ∧ (x : Int) < g.maxhpass := by
  simp [visible]

/-- A packed pixel as a number (00_scope.md R16). -/
theorem pack_toNat (c : RGB) :
    (pack c).toNat = 65536 * c.r.toNat + 256 * c.g.toNat + c.b.toNat := by
  have hg := c.g.isLt
  have hb := c.b.isLt
  simp only [pack, BitVec.toNat_append, BitVec.toNat_ofNat, Nat.zero_mod, Nat.zero_shiftLeft,
    Nat.zero_or]
  rw [← Nat.shiftLeft_add_eq_or_of_lt hg, ← Nat.shiftLeft_add_eq_or_of_lt hb]
  simp only [Nat.shiftLeft_eq]
  omega

/-- A packed pixel has a high byte of 0 (00_scope.md R16). -/
theorem pack_top (c : RGB) : (pack c).extractLsb' 24 8 = 0#8 := by
  unfold pack
  ext i hi
  simp only [BitVec.getElem_extractLsb', BitVec.getLsbD_append, BitVec.getLsbD_zero,
    BitVec.getElem_zero]
  rw [if_neg (by omega), if_neg (by omega), if_neg (by omega)]

end Sys2Proof.Machine
end

