-- ==== Sys2Proof/Tests/Slice0.lean ====
section
/-! SUPPORT. Tests: an ill-formed operand for each check, the words of 30_encoding.md decoded, values
of 95_test_vectors.md, and a witness of the hypotheses of every obligation that has any. -/

namespace Sys2Proof.Tests

open Sys2Proof.Machine

/-! ## Helpers -/

/-- The state an outcome answers, the reset state where it answers none. -/
def made (o : Out) : State :=
  match o with
  | .next t => t
  | .fault _ => State.reset
  | .refused _ => State.reset

/-- Does an outcome answer a next state. -/
def goesOn (o : Out) : Bool :=
  match o with
  | .next _ => true
  | .fault _ => false
  | .refused _ => false

/-- The refusal an outcome answers, if it is one. -/
def refusal (o : Out) : Option Refusal :=
  match o with
  | .refused r => some r
  | .next _ => none
  | .fault _ => none

/-- The fault an outcome answers, if it is one. -/
def fault (o : Out) : Option Fault :=
  match o with
  | .fault f => some f
  | .next _ => none
  | .refused _ => none

/-- The state after the host's actions of a script, one after the other, under the noise it fixes. -/
def scripted (l : List ScriptLine) (s : State) : State :=
  let t := s.withScript l
  t.host.foldl (fun s a => made (hostAction a s)) (t.withHost [])

/-- One worker, which is in turn. -/
def one : State := State.reset.withWorkers [Worker.fresh]

/-- The worker in turn after an operation on one worker. -/
def worker (i : Instr) (s : State) : Option Worker := (made (exec i s)).workers[0]?

/-- Setup `E1` of 95_test_vectors.md. -/
def e1 : Regs :=
  { Regs.zero with
    control := 0x0000320E
    origin := 0x00100000
    width := 320
    vSync := 0x20D
    hStart := 0x006C02EC
    vStart := 0x002501FF
    xScale := 0x00000200
    yScale := 0x00000400 }

/-- The registers of setup `T` of 95_test_vectors.md, with the control word of V7.1. -/
def setupT : Regs :=
  { Regs.zero with
    control := 0x00000202
    origin := 0x2000
    width := 16
    vSync := 0x20D
    hStart := 0x006C008C
    vStart := 0x0022002A
    xScale := 0x200
    yScale := 0x200 }

/-- The state in which the resolver has ended an update of the registers. -/
def resolved (r : Regs) : State := (resolveFrame (State.reset.withRegs r)).state

/-- One worker after an operation on a frame's registers and memory. -/
def oneOf (l : List ScriptLine) : State :=
  let s := scripted l one
  resolveExtent (takeSnapshot s)

/-! ## Well-formedness: one ill-formed operand for each check -/

theorem test_wf_rawNeed : (Instr.rawNeed .current 0 (-2)).wf = false := by decide
theorem test_wf_divNeed_row : (Instr.divNeed .current .next 0).wf = false := by decide
theorem test_wf_divNeed_column : (Instr.divNeed .next .next (-2)).wf = false := by decide
theorem test_wf_sel : (Instr.sel .current (-2)).wf = false := by decide
theorem test_wf_needs : (Instr.needs (-1)).wf = false := by decide
theorem test_wf_blend : (Instr.blend (-1) 0 0).wf = false := by decide
theorem test_wf_lerp3 : (Instr.lerp3 (-1) 0 0).wf = false := by decide
theorem test_wf_write : (Instr.write 0 0 0x01000000).wf = false := by decide
theorem test_wf_aaFilter : (Instr.aaFilter .bits16 ⟨0, 0, 0⟩ 0 7).wf = false := by decide
theorem test_wf_accepts : (Instr.sel .next (-1)).wf = true ∧ (Instr.needs 0).wf = true ∧
    (Instr.write 0 0 0x00FFFFFF).wf = true ∧
    (Instr.aaFilter .bits32 ⟨1, 2, 3⟩ 5 6).wf = true := by decide

/-! ## Decoding: words written out from 30_encoding.md R136 and R141 -/

theorem test_decode_commands :
    decodeTableWord 32 0x00000001 = some .dispInit ∧
    decodeTableWord 32 0x00000002 = some .dispWcount ∧
    decodeTableWord 32 0x00000003 = some .dispTeardown ∧
    decodeTableWord 32 0x00000010 = some (.cfgwr 0) ∧
    decodeTableWord 32 0x00020810 = some (.cfgwr 0x000208) ∧
    decodeTableWord 32 0x00000011 = some .update ∧
    decodeTableWord 32 0x00000012 = some (.snapreq []) := by decide

theorem test_decode_reserved_commands :
    decodeCmd 0x000000FF#32 [] = .error (.reservedOp 0xFF) ∧
    decodeCmd 0x12345613#32 [] = .error (.reservedOp 0x13) := by decide

/-- The pipeline rows; intent stands in bits 33:32, the colour type in bits 1:0. -/
theorem test_decode_pipeline_rows :
    decodeMode .pipeline 0x0000000000000000#64 = .ok .pipeFilt ∧
    decodeMode .pipeline 0x0000000100000002#64 = .ok .fastColor16 ∧
    decodeMode .pipeline 0x0000000100000003#64 = .ok .fastColor32 ∧
    decodeMode .pipeline 0x0000000200000000#64 = .ok .fastDepth ∧
    decodeMode .pipeline 0x0000000300000000#64 = .ok .fastCvg := by decide

/-- The fetch rows; bit 1 clear is a type without data. -/
theorem test_decode_fetch_rows :
    decodeMode .fetch 0x0000000000000002#64 = .ok .fetch16 ∧
    decodeMode .fetch 0x0000000000000003#64 = .ok .fetch32 ∧
    decodeMode .fetch 0x0000000000000001#64 = .ok .fetchBlank := by decide

/-- The blend rows; the anti-aliasing mode stands in bits 9:8. -/
theorem test_decode_blend_rows :
    decodeMode .blend 0x0000000000000000#64 = .ok .aaResampExtraAlways ∧
    decodeMode .blend 0x0000000000000100#64 = .ok .aaResampExtra ∧
    decodeMode .blend 0x0000000000000200#64 = .ok .aaResampOnly ∧
    decodeMode .blend 0x0000000000000300#64 = .ok .aaReplicate := by decide

/-- The restore row is bit 16, the divot row bit 4, the gamma rows bits 3:2. -/
theorem test_decode_filter_rows :
    decodeMode .restore 0x0000000000010000#64 = .ok .restoreOn ∧
    decodeMode .divot 0x0000000000000010#64 = .ok .divotOn ∧
    decodeMode .gamma 0x0000000000000000#64 = .ok .gammaOff ∧
    decodeMode .gamma 0x0000000000000004#64 = .ok .gammaDither ∧
    decodeMode .gamma 0x0000000000000008#64 = .ok .gammaTable ∧
    decodeMode .gamma 0x000000000000000C#64 = .ok .gammaTableDither := by decide

/-- The field row is bits 1 and 6; overscan is bit 35, widescreen bit 34. -/
theorem test_decode_frame_rows :
    decodeMode .field 0x0000000000000042#64 = .ok .fieldInterlaced ∧
    decodeMode .compose 0x0000000000000000#64 = .ok .composeFull ∧
    decodeMode .compose 0x0000000800000000#64 = .ok .composeCrop ∧
    decodeMode .widescreen 0x0000000400000000#64 = .ok .widescreen := by decide

/-- V2.1, two rows. -/
theorem test_decodeCtrl :
    decodeCtrl 0x0FFFFFFF#32
      = ⟨.rgba32, .replicate, true, true, true, true, true, true, true, true⟩ ∧
    decodeCtrl 0x0001020A#32
      = ⟨.rgba16, .resampOnly, true, false, false, false, false, false, false, true⟩ := by decide

/-- V2.5: what three pseudo-lines write; R144: the directive `.noise`, which is no action and holds
for the whole script, the lines before it too. -/
theorem test_script_lines :
    ScriptLine.actions resetCfg (.hstart 108 748) = [.reg .hStart 0x006C02EC] ∧
    ScriptLine.actions resetCfg (.pix16 0x1004 8 12 27 7)
      = [.mem16 0x1004 0x4337, .aux 0x1004 3] ∧
    ScriptLine.actions resetCfg (.noise (.affine 1234 567 89)) = [] ∧
    scriptNoise [.init, .noise (.affine 1234 567 89), .update] = some (.affine 1234 567 89) ∧
    ScriptLine.actions resetCfg (.pix32 0x804 64 96 216 7) = [.mem32 0x804 0x4060D8E0] := by decide

/-! ## Dispatcher (part 3 of the vectors) -/

/-- V3.1, with a requested count. -/
theorem test_init_wcount_teardown :
    let s := scripted [.cfgwr none (some 3) none none, .init, .cfgwr none (some 5) none none, .wcount]
      State.reset
    s.ret = some 3 ∧ s.disp.w = 3 ∧ s.workers.length = 3 ∧
    (made (exec .dispTeardown s)).disp.state = .stopping ∧
    (made (step (made (exec .dispTeardown s)))).disp.state = .tornDown ∧
    refusal (exec .dispInit s) = some .dispatcherState := by decide +kernel

/-- V3.1: the three commands refused of an unconstructed dispatcher. -/
theorem test_unconstructed_refuses :
    refusal (exec .dispWcount State.reset) = some .dispatcherState ∧
    refusal (exec .dispTeardown State.reset) = some .dispatcherState := by decide +kernel

/-- V3.2. -/
theorem test_partition :
    ownedItems 0 3 7 = [0, 3, 6] ∧ ownedItems 1 3 7 = [1, 4] ∧ ownedItems 2 3 7 = [2, 5] ∧
    ownedItems 4 5 4 = [] ∧ ownedItems 0 1 4 = [0, 1, 2, 3] := by decide

/-- V3.3: run on an unconstructed dispatcher. -/
theorem test_run_unconstructed :
    let t := made (exec (.dispRun .filt) State.reset)
    t.out = [.report .fatal 0x03 0] ∧ t.phase = .halted ∧ t.fault = ⟨true, 3, 0⟩ := by
  decide +kernel

/-- R162, R164: a round begins, and its worker starts with its own id. -/
theorem test_run_and_start :
    let s := made (exec (.dispRun .filt) (scripted [.cfgwr none (some 1) none none, .init] State.reset))
    s.disp = ⟨.running, 1, some .filt, [.pending], false⟩ ∧
    (made (step s)).disp.wstat = [.busy] ∧
    (made (step s)).workers.map (·.seq) = [[.op (.taskFilt 0)]] := by decide +kernel

/-! ## Filters (part 4) -/

/-- V4.1. -/
theorem test_lerp :
    (worker (.lerp ⟨255, 11, 0, 3⟩ ⟨0, 10, 255, 7⟩ 1) one).map (·.sample) = some ⟨247, 11, 8, 3⟩ ∧
    (worker (.lerp ⟨11, 10, 255, 7⟩ ⟨10, 11, 0, 0⟩ 16) one).map (·.sample)
      = some ⟨11, 11, 128, 7⟩ := by decide +kernel

/-- V4.2. -/
theorem test_divot :
    (worker (.divot ⟨112, 168, 192, 7⟩ ⟨128, 192, 184, 7⟩ ⟨192, 96, 204, 3⟩) one).map (·.sample)
      = some ⟨128, 168, 192, 7⟩ ∧
    (worker (.divot ⟨160, 240, 168, 7⟩ ⟨176, 8, 160, 7⟩ ⟨192, 32, 152, 7⟩) one).map (·.sample)
      = some ⟨176, 8, 160, 7⟩ := by decide +kernel

/-- V4.3. -/
theorem test_gamma_tables :
    [0, 1, 2, 63, 64, 127, 128, 171, 248, 254, 255].map gammaTable
      = [0, 16, 22, 126, 128, 180, 180, 208, 250, 254, 254] ∧
    [0, 1, 3, 4, 63, 64, 4095, 4096, 8192, 10969, 15872, 15935, 16320, 16383].map gammaDitherTable
      = [0, 2, 2, 4, 14, 16, 126, 128, 180, 208, 250, 252, 254, 254] := by decide +kernel

/-- V4.4, with the noise word `0x5A5A`. -/
theorem test_gamma_dither :
    gammaDitherRgb ⟨171, 64, 255⟩ 0x5A5A = ⟨171, 65, 255⟩ ∧
    gammaDitherRgb ⟨0, 254, 255⟩ 0x5A5A = ⟨0, 255, 255⟩ ∧
    gammaTableDitherRgb ⟨171, 64, 255⟩ 0x5A5A = ⟨208, 128, 254⟩ ∧
    gammaTableDitherRgb ⟨0, 254, 255⟩ 0x5A5A = ⟨10, 254, 254⟩ := by decide +kernel

/-- V4.4, the row `GAMMA.TABLE`. -/
theorem test_gamma_table :
    (worker .gammaTable (one.withWorkers [{ Worker.fresh with rgb := ⟨171, 64, 255⟩ }])).map (·.rgb)
      = some ⟨208, 128, 254⟩ := by decide +kernel

/-- The frame of V4.5: twelve 32-bit pixels, the sixth partly covered. -/
def v45 : State := oneOf ([.reg .control 3, .reg .origin 0x2000, .reg .width 4] ++
  ((List.range 12).map fun k =>
    .pix32 (BitVec.ofNat 32 (0x800 + k)) (BitVec.ofNat 8 (10 * k)) 100
      (BitVec.ofNat 8 (255 - 10 * k)) 7) ++ [.pix32 0x805 200 100 0 2])

/-- V4.5. -/
theorem test_fetch32_aaFilter :
    (worker (.fetch 5) v45).map (·.sample) = some ⟨88, 100, 147, 2⟩ ∧
    (worker (.aaFilter .bits32 ⟨200, 100, 0⟩ 5 0) v45).map (·.rgb) = some ⟨43, 100, 206⟩ ∧
    (worker (.aaFilter .bits32 ⟨200, 100, 0⟩ 5 6) v45).map (·.rgb) = some ⟨178, 100, 29⟩ := by
  decide +kernel

/-- The full neighbours of V4.6 and its partly covered centre. -/
def v46 : State := oneOf [.reg .control 2, .reg .origin 0x2000, .reg .width 16,
  .pix16 0x1003 6 9 28 7, .pix16 0x1007 14 21 24 7, .pix16 0x1014 9 12 26 7,
  .pix16 0x1016 13 18 24 7, .pix16 0x1005 10 15 26 3]

/-- V4.6. -/
theorem test_fetch16_aaFilter : (worker (.fetch 5) v46).map (·.sample) = some ⟨88, 120, 200, 3⟩ := by
  decide +kernel

/-- The 3 by 3 block of V4.7. -/
def v47 : State := oneOf ([.reg .control 0x10202, .reg .origin 0x2000, .reg .width 4] ++
  [(0, 17), (1, 17), (2, 16), (4, 20), (5, 16), (6, 3), (8, 15), (9, 16), (10, 16)].map fun e =>
    .pix16 (BitVec.ofNat 32 (0x1000 + e.1)) (BitVec.ofNat 5 e.2) (BitVec.ofNat 5 (31 - e.2)) 16 7)

/-- V4.7. -/
theorem test_restoreFilter :
    (worker (.fetch 5) v47).map (·.sample) = some ⟨129, 119, 128, 7⟩ ∧
    (worker (.fetch 0) v47).map (·.sample) = some ⟨131, 107, 123, 7⟩ := by decide +kernel

/-- V4.8: `FETCH.16` without coverage, `FETCH.BLANK`. -/
theorem test_fetch_rows :
    (worker .fetch16 (oneOf [.reg .control 0x202, .mem16 0 0xF800, .aux 0 3])).map (·.sample)
      = some ⟨248, 0, 0, 7⟩ ∧
    (worker .fetch32 (oneOf [.reg .control 0x203, .mem32 0 0x102030FF])).map (·.sample)
      = some ⟨0x10, 0x20, 0x30, 7⟩ ∧
    (worker .fetchBlank one).map (·.sample) = some ⟨0, 0, 0, 7⟩ := by decide +kernel

/-! ## Resolver (parts 5 and 6) -/

/-- V2.2: the packed fields, at their boundaries. -/
theorem test_extent :
    let g := (made (exec .resExtent (State.reset.withSnap { e1 with
      xScale := 0x01230456, origin := 0xFF002000, width := 0xFFFFF010, vSync := 0xFFFFFE0D,
      vCurrentLine := 0x1FF }))).geom
    g.hStart = 108 ∧ g.hres = 640 ∧ g.vStart = 37 ∧ g.vres = 237 ∧ g.xStart = 0x123 ∧
    g.xAdd = 0x456 ∧ g.origin = 0x002000 ∧ g.width = 0x010 ∧ g.vSync = 525 ∧ g.parity = true := by
  decide +kernel

/-- V5.1. -/
theorem test_frame_e1 :
    let g := (resolved e1).geom
    (g.hStart, g.hres, g.vStart, g.vres) = (0, 640, 1, 237) ∧ (g.minhpass, g.maxhpass) = (8, 633) ∧
    g.vactive = 245 ∧ g.prescalePtr = 640 ∧ g.linecount = 640 := by decide +kernel

/-- V5.2. -/
theorem test_frame_pal :
    let g := (resolved { e1 with vSync := 625, hStart := 0x00800300, vStart := 0x005F0239 }).geom
    (g.hStart, g.hres, g.vStart, g.vres) = (0, 640, 25, 237) ∧ g.ispal = true ∧
    g.vactive = 290 ∧ g.prescalePtr = 16000 := by decide +kernel

/-- V5.3, V5.4. -/
theorem test_frame_clamps :
    (let g := (resolved { e1 with hStart := 0x006402E4 }).geom
     (g.hres, g.xStart, g.minhpass, g.maxhpass) = (632, 4096, 0, 625) ∧ g.hStartClamped = true) ∧
    (let g := (resolved { e1 with hStart := 0x00800320 }).geom
     (g.hStart, g.hres, g.minhpass, g.maxhpass) = (20, 620, 8, 620) ∧ g.hresClamped = true) := by
  decide +kernel

/-- V5.6, V5.7. -/
theorem test_vporch :
    (let g := (resolved { e1 with vStart := 0x001E01F8 }).geom
     (g.vStart, g.yStart, g.prescalePtr) = (0, 2048, 0)) ∧
    (let g := (resolved { e1 with vStart := 0x002101FB }).geom
     (g.vStart, g.yStart) = (0, 0)) := by decide +kernel

/-- V5.12, V5.13: the strict threshold. -/
theorem test_tv :
    (resolved { e1 with vSync := 550 }).geom.ispal = false ∧
    (resolved { e1 with vSync := 551 }).geom.ispal = true := by decide +kernel

/-- V5.14, V5.16. -/
theorem test_vactive :
    (resolved { e1 with vSync := 34 }).outcome = some (.skip .noActiveLines) ∧
    (resolved { e1 with vSync := 670 }).out = [.report .fatal 0x02 670] := by decide +kernel

/-- V5.20, V5.21, V5.25. -/
theorem test_skips :
    (resolved { e1 with origin := 0xFF000000 }).outcome = some (.skip .nullOrigin) ∧
    (resolved { e1 with control := 0x3201 }).outcome = some (.skip .blank) ∧
    (resolved { e1 with hStart := 0x03200384 }).outcome = some (.skip .emptyWindow) := by
  decide +kernel

/-- V5.29, V5.30. -/
theorem test_warnings :
    (resolved { e1 with control := 0x0302 }).out = [.report .warning 0x22 0] ∧
    (resolved { e1 with control := 0x322E, vSync := 1023 }).out
      = [.report .warning 0x21 0, .report .fatal 0x02 1023] := by decide +kernel

/-- V5.31, V5.32. -/
theorem test_fit :
    (resolved { e1 with control := 0x324E, vStart := 0x00220292 }).geom.prescalePtr = 0 ∧
    (let s := resolved { e1 with control := 0x324E, vStart := 0x00220294 }
     s.fault = ⟨true, 0x05, 313⟩ ∧ s.interlace = ⟨false, true, 34, false, .undetermined⟩) := by
  decide +kernel

/-- An interlaced frame at step 6 with the given parity and vertical start, after the frame 1 of
V6.1. -/
def interlaced (parity : Bool) (vStart : BitVec 10) : State :=
  ((State.reset.withSnap { e1 with control := 0x324E }).withGeom { Geometry.zero with
    hasData := true, parity := parity, vStartRaw := vStart }).withInterlace
      ⟨false, true, 37, false, .undetermined⟩

/-- V6.1, frame 2; V6.2, frame 2; V6.3, frame 2. -/
theorem test_field :
    (made (exec .resField (interlaced true 37))).interlace = ⟨true, true, 37, false, .hardware⟩ ∧
    (made (exec .resField (interlaced false 37))).interlace = ⟨false, true, 37, true, .software⟩ ∧
    (made (exec .fieldInterlaced (interlaced false 35))).interlace
      = ⟨false, true, 35, true, .software⟩ := by decide +kernel

/-! ## Pipelines (parts 7 and 8) -/

/-- The eight source pixels of setup `T` that the pixels below read. -/
def v7 : State := resolveFrame (scripted
  (((List.range 8).map fun k =>
    let r := k / 4
    let c := k % 4 + 3
    .pix16 (BitVec.ofNat 32 (0x1000 + 16 * r + c)) (BitVec.ofNat 5 (2 * c + r))
      (BitVec.ofNat 5 (3 * c)) (BitVec.ofNat 5 (31 - c - r)) 7))
  (one.withRegs setupT)) |>.state

/-- The state after the first operations of a scanline on that frame. -/
def inLine (y : Nat) : State := made (exec .cacheNew (made (exec (.scanline y) v7)))

/-- V7.1: `(0, 9)` and `(1, 9)`, and a border column. -/
theorem test_column :
    prescaleGet (made (exec (.column 0 9) (inLine 0))).prescale 9 = 0x486CD4 ∧
    prescaleGet (made (exec (.column 1 9) (inLine 1))).prescale 649 = 0x4C6CD0 ∧
    prescaleGet (made (exec (.column 0 7) (inLine 0))).prescale 7 = 0 := by decide +kernel

/-- V7.1 again, by the closed form. -/
theorem test_pix : pix v7 0 8 = 0x4060D8 ∧ pix v7 1 9 = 0x4C6CD0 ∧ pix v7 0 7 = 0 := by
  decide +kernel

/-- The noise of V7.3, fixed by a script. -/
def withNoise73 (s : State) : State := scripted [.noise (.affine 1234 567 89)] s

/-- V7.3, V7.4: both dither rows, under the noise of V7.3. -/
theorem test_noise :
    (let s := withNoise73 (v7.withSnap { setupT with control := 0x020E })
     ditherNoise s 1 8 = 0x16E3 ∧ pix s 1 8 = 0x849CE8) ∧
    (let s := withNoise73 (v7.withSnap { setupT with control := 0x0206 })
     pix s 0 8 = 0x4160D8 ∧ pix s 0 10 = 0x5179D1 ∧ pix s 1 9 = 0x4C6DD0) := by decide +kernel

/-- The blend of `(1, 9)`, operation by operation: the weights are 16 and 16. -/
theorem test_blend :
    let s := made (exec (.needs 4) (inLine 1))
    (worker (.sel .next 5) s).map (·.sample) = some ⟨88, 120, 200, 7⟩ ∧
    (worker (.lerp3 4 16 16) s).map (·.colour) = some ⟨76, 108, 208, 7⟩ ∧
    (worker (.blend 4 16 0) s).map (·.colour) = some ⟨72, 108, 212, 7⟩ ∧
    (worker (.blend 4 0 0) s).map (·.colour) = some ⟨64, 96, 216, 7⟩ := by decide +kernel

/-- R284, R286: a fill, and a divot column from three filled raw columns. -/
theorem test_need :
    let s := made (exec (.rawNeed .current 0 5) (inLine 0))
    (s.workers[0]?.bind fun w => w.rawc.get 5) = some ⟨80, 120, 208, 7⟩ ∧
    ((worker (.divNeed .current .current 4) s).bind fun w => w.divc.get 4)
      = some ⟨64, 96, 216, 7⟩ ∧
    fault (exec (.divNeed .current .current 5) s) = some .cacheUnfilled := by decide +kernel

/-- Setup `F` of 95_test_vectors.md, its memory for V8.1 and V8.4, and an intent. -/
def setupF (i : Intent) (control : Word) : State :=
  let s := scripted [.mem16 0x1000 0xF801, .mem16 0x1001 0x07C1, .aux 0x1001 2,
    .mem16 0x1800 0xABCD, .zb 0x3000] (one.withRegs { Regs.zero with
      control := control, origin := 0x2000, width := 4, vSync := 525, hStart := 0x006C006E,
      vStart := 0x00220026, xScale := 0x400, yScale := 0x400 })
  (fastGeom (s.withCfgCopy { resetCfg with intent := i })).state

/-- V8.1, V8.3 (with and without gamma), and a coverage of 6 (V8.4). -/
theorem test_fast_pixels :
    prescaleGet (made (fastPixel 0 1 (setupF .colorFast 2))).prescale 1 = 0x00F800 ∧
    prescaleGet (made (fastPixel 0 0 (setupF .depthFast 0))).prescale 0 = 0xABABAB ∧
    prescaleGet (made (fastPixel 0 0 (setupF .depthFast 0xA))).prescale 0 = 0xD0D0D0 ∧
    prescaleGet (made (fastPixel 0 1 (setupF .coverageFast 1))).prescale 1 = 0xC0C0C0 := by
  decide +kernel

/-- V8.3, its last row, word 1: the three channels take different noise bits. -/
theorem test_fast_noise :
    prescaleGet (made (fastPixel 0 1 (withNoise73 (setupF .depthFast 0xE)))).prescale 1 = 0x080600 := by
  decide +kernel

/-- Setup `F`'s geometry, and three rows of V8.5. -/
theorem test_fast_geometry :
    (let g := (setupF .colorFast 2).geom
     (g.hresRaw, g.vresRaw, g.hres, g.vres) = (2, 2, 2, 2)) ∧
    (setupF .colorFast 0).outcome = some (.skip .blank) ∧
    (setupF .depthFast 0).outcome = none ∧
    (made (exec .fastFit (State.reset.withGeom { Geometry.zero with
      hresRaw := 1280, vresRaw := 474 }))).out = [.report .fatal 0x06 606720] := by decide +kernel

/-! ## Composition (part 9) -/

/-- V9.1, V9.2 and V8.6: the rectangles of `E1`. -/
theorem test_rectangles :
    (made (exec .composeFull (resolved e1))).desc = ⟨0, 640, 245, 640, 491⟩ ∧
    (made (exec .composeCrop (resolved e1))).desc = ⟨648, 625, 237, 640, 474⟩ ∧
    (made (exec .composeCrop (resolved { e1 with control := 0x324E }))).desc
      = ⟨1288, 625, 474, 640, 474⟩ ∧
    (made (exec .composeFast (fastGeom (State.reset.withRegs e1)).state)).desc
      = ⟨0, 320, 237, 320, 237⟩ := by decide +kernel

/-- V9.1: the widescreen targets. -/
theorem test_widescreen :
    (made (exec .widescreen (State.reset.withDesc ⟨0, 640, 245, 640, 491⟩))).desc.targetHeight = 276 ∧
    (made (exec .widescreen (State.reset.withDesc ⟨648, 625, 237, 640, 474⟩))).desc.targetHeight
      = 266 := by decide +kernel

/-- V5.15, V5.26: a rectangle that is empty. -/
theorem test_empty_rectangles :
    (made (exec .composeFull (resolved { e1 with vSync := 35 }))).outcome
      = some (.skip .emptyCrop) ∧
    (made (exec .composeCrop (resolved { e1 with hStart := 0x006C007B }))).outcome
      = some (.skip .emptyCrop) := by decide +kernel

/-- V9.6. -/
theorem test_rowMap :
    [0, 1, 2, 3, 245, 489, 490].map (rowMap ⟨0, 640, 245, 640, 491⟩) = [0, 0, 0, 1, 122, 244, 244] ∧
    [0, 1, 8, 9, 10, 265].map (rowMap ⟨0, 625, 237, 640, 266⟩) = [0, 0, 7, 8, 8, 236] := by
  decide +kernel

/-- The picture of V9.7. -/
def v97 : State := (State.reset.withPrescale [(0, 0xF80000), (1, 0x00F800), (2, 0x0000F8),
  (3, 0xF8F8F8)]).withDesc ⟨0, 2, 2, 2, 4⟩

/-- V9.7: the file, byte for byte. -/
theorem test_bmp : (made (exec .bmp v97)).bmp =
    [0x42, 0x4D, 0x56, 0, 0, 0, 0, 0, 0, 0, 0x36, 0, 0, 0] ++
    [0x28, 0, 0, 0, 2, 0, 0, 0, 4, 0, 0, 0, 1, 0, 0x20, 0, 0, 0, 0, 0] ++
    [0x20, 0, 0, 0, 0, 0, 0, 0, 0, 0, 0, 0, 0, 0, 0, 0, 0, 0, 0, 0] ++
    [0xF8, 0, 0, 0, 0xF8, 0xF8, 0xF8, 0] ++ [0xF8, 0, 0, 0, 0xF8, 0xF8, 0xF8, 0] ++
    [0, 0, 0xF8, 0, 0, 0xF8, 0, 0] ++ [0, 0, 0xF8, 0, 0, 0xF8, 0, 0] := by decide +kernel

/-- R348, R350: what the sink and the present signal append. -/
theorem test_events :
    (made (exec .sink v97)).out
      = [.sink ⟨0, 2, 2, 2, 4⟩ [[0xF80000, 0x00F800], [0x0000F8, 0xF8F8F8]]] ∧
    (made (exec .present State.reset)).out = [.present] := by decide +kernel

/-- R353: the request is cleared, whatever the environment answers. -/
theorem test_snapshot : (made (exec .snapshot (v97.withSnapreq ⟨true, [0x61]⟩))).snapreq
    = ⟨false, [0x61]⟩ := rfl

/-- R342: a change of intent zeroes the buffer, no change keeps it. -/
theorem test_modesw :
    (made (exec .modesw (v97.withCfgCopy { resetCfg with intent := .depthFast }))).prescale = [] ∧
    (made (exec .modesw v97)).prescale = v97.prescale := by decide +kernel

/-- R340: an update of an idle block starts; R390: a second one is refused. -/
theorem test_update :
    (made (exec .update State.reset)).phase = .resolve ∧
    refusal (exec .update (made (exec .update State.reset))) = some .busy := by decide +kernel

/-- R357: V2.3's last configuration word, and the one of ignored bits. -/
theorem test_cfgwr :
    (made (exec (.cfgwr 0x00000F) State.reset)).cfg = ⟨.coverageFast, true, true, 0⟩ ∧
    (made (exec (.cfgwr 0xFF00F0) State.reset)).cfg = ⟨.normal, false, false, 0⟩ := by
  decide +kernel

/-- R430, R431: a reset of a block with a pending request and a register written. -/
theorem test_reset :
    let s := (State.reset.withRegs e1).withSnapreq ⟨true, [1]⟩
    (made (exec .reset s)).regs = e1 ∧ (made (exec .reset s)).snapreq.pending = false := by
  decide +kernel

/-- One word of the table, placed and run as the first operation after reset. -/
theorem test_withFetchWord :
    (made (step (State.reset.withFetchWord 32 0x00020810))).cfg = ⟨.normal, false, true, 2⟩ ∧
    (made (step (State.reset.withFetchWord 40 0x00000008_0000_0000))).outcome
      = some (.skip .emptyCrop) ∧
    goesOn (step (State.reset.withFetchWord 40 0x200)) = true := by decide +kernel

/-! ## Witnesses: states and operands that meet the hypotheses of each obligation

One theorem for each obligation that has hypotheses; where it has several clauses, each clause at a
boundary value. -/

/-- The words of the round trip: an encoding with every operand bit set, and a mode row. -/
theorem witness_EncodeDecodeRoundTrip :
    encode (.cfgwr 0xFFFFFF) ≠ .seq ∧ encode .widescreen = .mode .widescreen 0x400000000 := by
  decide

/-- Each intent, one that is not normal, and a row that is hit. -/
theorem witness_ModeRowsSelectByFields :
    (∃ cfg : Cfg, cfg.intent = .normal) ∧
    (∃ cfg : Cfg, cfg.intent ≠ .normal ∧ cfg.intent = .colorFast) ∧
    (∃ cfg : Cfg, cfg.intent = .depthFast) ∧ (∃ cfg : Cfg, cfg.intent = .coverageFast) ∧
    (∃ m : ModeWord, ∃ r ∈ modeRows, ∃ q ∈ modeRows, r.stage = q.stage ∧ r.hits m = true ∧
      q.hits m = true) :=
  ⟨⟨resetCfg, rfl⟩, ⟨⟨.colorFast, false, false, 0⟩, by decide, rfl⟩,
    ⟨⟨.depthFast, false, false, 0⟩, rfl⟩, ⟨⟨.coverageFast, false, false, 0⟩, rfl⟩,
    ⟨0, ⟨.pipeline, 0x300000000, 0, .pipeFilt⟩, by decide, _, by decide, rfl, by decide, by decide⟩⟩

/-- One word for each command, its ignored bits set, and reserved ones beside the assigned ones. -/
theorem witness_CommandWordsDecode :
    (0xFFFFFF01#32).toNat % 256 = 0x01 ∧ (0xFFFFFF02#32).toNat % 256 = 0x02 ∧
    (0xFFFFFF03#32).toNat % 256 = 0x03 ∧ (0xFFFFFF10#32).toNat % 256 = 0x10 ∧
    (0xFFFFFF11#32).toNat % 256 = 0x11 ∧ (0xFFFFFF12#32).toNat % 256 = 0x12 ∧
    ([0#32, 4#32, 0x0F#32, 0x13#32, 0xFF#32, 0x100#32].all fun w =>
      decide (w.toNat % 256 ∉ [0x01, 0x02, 0x03, 0x10, 0x11, 0x12])) = true := by decide

/-- Two words that differ in every ignored bit. -/
theorem witness_FieldWordsRoundTrip :
    0xFFFF00F0#32 &&& 0x0000FF0F#32 = 0#32 &&& 0x0000FF0F#32 ∧
    0xFFFEF400#32 &&& 0x00010BFF#32 = 0#32 &&& 0x00010BFF#32 := by decide

/-- The first and the last word whose two halfwords have indices, and the last index of each view. -/
theorem witness_HostWritesReadBack :
    ((0#32).toNat = 2 * (0#32).toNat ∧ (1#32).toNat = 2 * (0#32).toNat + 1) ∧
    ((0xFFFFFFFE#32).toNat = 2 * (0x7FFFFFFF#32).toNat ∧
      (0xFFFFFFFF#32).toNat = 2 * (0x7FFFFFFF#32).toNat + 1 ∧
      4 * (0x7FFFFFFF#32).toNat + 3 < State.reset.memLimit) ∧
    HostMay State.reset ∧ Memory.wf State.reset.mem = true ∧ Memory.wf State.reset.aux = true ∧
    2 * (0xFFFFFFFF#32).toNat + 1 < State.reset.memLimit ∧
    4 * (0xFFFFFFFF#32).toNat + 3 < State.reset.memLimit :=
  ⟨by decide, by decide, ⟨rfl, rfl⟩, rfl, rfl, by decide, by decide⟩

/-- `HostWritesReadBack`: another register than the one written, lines without `.noise`, both forms of
a noise function, and another position than the point's. -/
theorem witness_HostWritesReadBack_others :
    HostMay State.reset ∧ RegName.control ≠ .yScale ∧
    (∀ g, ScriptLine.noise g ∉ [.init, .update]) ∧
    NoiseFn.affine 1234 567 89 = .affine 1234 567 89 ∧
    NoiseFn.point 1 2 3 (.affine 0 0 0) = .point 1 2 3 (.affine 0 0 0) ∧
    ((2, 1) : Nat × Nat) ≠ (1, 2) :=
  ⟨⟨rfl, rfl⟩, by decide, by simp, rfl, rfl, by decide⟩

/-- A worker in turn: of `BlendResultIsExact`, `DivotTakesTheMedian`, `GammaRowsResult`,
`ScanlineResult`, `NewCachesResult` and `FastSamplesResult`. -/
theorem witness_WorkerIs : WorkerIs one Worker.fresh := rfl

/-- `DivotTakesTheMedian`: three full pixels, and three that are not. -/
theorem witness_DivotTakesTheMedian :
    (⟨0, 0, 0, 7⟩ : CCVG).cvg = 7#3 ∧
    ¬((⟨0, 0, 0, 7⟩ : CCVG).cvg = 7#3 ∧ (⟨0, 0, 0, 6⟩ : CCVG).cvg = 7#3) := by decide

/-- A list of as many neighbours as the restore filter reads. -/
theorem witness_RestoreCountsNeighbours : (List.replicate 8 (31#5)).length ≤ 8 := by decide

/-- `FetchRowsResult`: both pixel formats, with and without the coverage read, a full and a partly
covered pixel, with and without the restore filter, and a blank type. -/
theorem witness_FetchRowsResult :
    (WorkerIs v46 Worker.fresh ∧ v46.ctrl.ctype = .rgba16 ∧
      v46.ctrl.aaMode = .resampExtraAlways ∧ (fetch v46 5).cvg ≠ 7#3 ∧ (fetch v46 3).cvg = 7#3 ∧
      v46.ctrl.ditherFilter = false) ∧
    (v47.ctrl.aaMode = .resampOnly ∧ (fetch v47 5).cvg = 7#3 ∧ v47.ctrl.ditherFilter = true) ∧
    (v45.ctrl.ctype = .rgba32 ∧ v45.ctrl.aaMode = .resampExtraAlways ∧
      (fetch v45 5).cvg ≠ 7#3 ∧ (fetch v45 4).cvg = 7#3) ∧
    ((oneOf [.reg .control 0x10203]).ctrl.ctype = .rgba32 ∧
      (oneOf [.reg .control 0x10203]).ctrl.ditherFilter = true ∧
      (fetch (oneOf [.reg .control 0x10203]) 0).cvg = 7#3) ∧
    State.reset.ctrl.ctype = .blank :=
  ⟨⟨rfl, by decide +kernel⟩, by decide +kernel⟩

/-- One column beyond the left edge, and the edge itself. -/
theorem witness_HorizontalClampResult :
    ((State.reset.withGeom { Geometry.zero with hStart := -1 }).geom.hStart < 0) ∧
    0 ≤ State.reset.geom.hStart := by decide

/-- `FieldStateMachineResult`: each authority, an equal and an unequal vertical start; and a frame
that is not valid-interlaced. -/
theorem witness_FieldStateMachineResult :
    ((interlaced true 37).geom.hasData = true ∧ (interlaced true 37).ctrl.serrate = true) ∧
    inferAuthority (interlaced true 37).interlace true = .hardware ∧
    inferAuthority (interlaced false 37).interlace false = .software ∧
    (interlaced false 37).geom.vStartRaw = (interlaced false 37).interlace.oldVStart ∧
    (interlaced false 36).geom.vStartRaw ≠ (interlaced false 36).interlace.oldVStart ∧
    inferAuthority Interlace.reset false = .undetermined ∧
    ¬(State.reset.geom.hasData = true ∧ State.reset.ctrl.serrate = true) :=
  by decide

/-- A vertical start one below the offset halves to 0, two below it to -1. -/
theorem witness_VerticalPorchAndCanvasResult :
    0 ≤ Int.tdiv ((State.reset.withGeom { Geometry.zero with vStart := 33 }).geom.vStart - 34) 2 ∧
    Int.tdiv ((State.reset.withGeom { Geometry.zero with vStart := 32 }).geom.vStart - 34) 2 < 0 := by
  decide

/-- The boundaries of the sync test, in both standards, with and without serrate. -/
theorem witness_ActiveLinesResult :
    (625 < (670 : Int) - 44 ∧ 0 < (669 : Int) - 44 ∧ (669 : Int) - 44 ≤ 625) ∧
    ((34 : Int) - 34 ≤ 0 ∧ 0 < (35 : Int) - 34) ∧
    (State.reset.withSnap { e1 with control := 0x324E }).ctrl.serrate = true ∧
    (State.reset.withSnap e1).ctrl.serrate = false := by decide

/-- `SkipTestsAndFitResult`: each of the three skips, a frame that passes, and both sides of the fit
test. -/
theorem witness_SkipTestsAndFitResult :
    (State.reset.ctrl.serrate = false ∧ State.reset.geom.hasData = false) ∧
    (let s := State.reset.withGeom { Geometry.zero with hasData := true }
     s.geom.hasData = true ∧ s.geom.hres ≤ 0) ∧
    (let s := State.reset.withGeom { Geometry.zero with hasData := true, hres := 1, vres := 1 }
     s.geom.hasData = true ∧ ¬(s.geom.hres ≤ 0 ∨ s.geom.vres ≤ 0) ∧ s.geom.origin = 0) ∧
    (let s := State.reset.withGeom { Geometry.zero with
       hasData := true, hres := 1, vres := 1, origin := 1 }
     ¬(s.geom.hres ≤ 0 ∨ s.geom.vres ≤ 0) ∧ s.geom.origin ≠ 0) ∧
    (interlaced false 37).ctrl.serrate = true ∧ 625 < 2 * ((0 : Int) + 313) ∧
    ¬625 < 2 * ((0 : Int) + 312) := by decide

/-- The state an accepted `UPDATE` leaves, on the registers of `T`, and on those of a frame with a
null origin. -/
def updating (r : Regs) : State := startUpdate (State.reset.withRegs r)

/-- An update whose frame is accepted, and one whose frame is skipped. -/
theorem witness_ResolverRunsInOrder :
    EngineTurn (updating setupT) ∧ (updating setupT).phase = .resolve ∧
    (∃ rest, (updating setupT).seq = filteredResolver.map .op ++ rest) ∧
    (∃ t, resolveFrame (updating setupT) = .go t) ∧
    (∃ t, resolveFrame (updating { setupT with origin := 0 }) = .ended t) :=
  ⟨⟨rfl, by decide, by decide⟩, rfl, ⟨_, rfl⟩, ⟨_, rfl⟩, ⟨_, rfl⟩⟩

/-- The frame of setup `T`, accepted. -/
theorem witness_Accepted : Accepted (resolved setupT) := ⟨State.reset.withRegs setupT, rfl⟩

/-- `AcceptedFrameBounds`, `AcceptedFrameWords`: the first and the last pixel of the frame, and both
rectangles. -/
theorem witness_AcceptedFrame :
    let g := (resolved setupT).geom
    (((0 : Nat) : Int) < g.hres ∧ ((31 : Nat) : Int) < g.hres) ∧
    (((0 : Nat) : Int) < g.vres ∧ ((3 : Nat) : Int) < g.vres) ∧ 0 < g.vactive ∧
    0 < g.maxhpass - g.minhpass := by decide +kernel

/-- An update of a fast frame, from its registers. -/
def fastUpdate : State := (State.reset.withRegs { e1 with xScale := 0x400 }).withCfgCopy
  { resetCfg with intent := .depthFast }

/-- `AcceptedFrameWords`: a fast frame, and its last pixel. -/
theorem witness_AcceptedFast :
    AcceptedFast ((fastGeom fastUpdate).state.withSeq []) ∧
    ((639 : Nat) : Int) < ((fastGeom fastUpdate).state.withSeq []).geom.hresRaw ∧
    ((236 : Nat) : Int) < ((fastGeom fastUpdate).state.withSeq []).geom.vresRaw :=
  ⟨⟨fastUpdate, (fastGeom fastUpdate).state, [], by decide +kernel, by decide +kernel⟩,
    by decide +kernel, by decide +kernel⟩

/-- The last worker of a pool of two. -/
theorem witness_TasksIssueTheirOwnItems :
    let s := (State.reset.withWorkers [Worker.fresh, Worker.fresh]).withMe 1
    let s := s.withDisp { s.disp with w := 2 }
    WorkerIs s Worker.fresh ∧ 1 < s.disp.w := ⟨rfl, by decide⟩

/-- `NewCachesResult`: a frame with the divot filter on. -/
theorem witness_NewCachesResult : (one.withSnap { e1 with control := 0x12 }).ctrl.divot = true := by
  decide

/-- `RawNeedResult`: with a marker at -1 and column 0 needed, columns on each side of the two. -/
theorem witness_RawNeedResult :
    let w := { Worker.fresh with rawc := ⟨[], -1⟩ }
    WorkerIs (one.withWorkers [w]) w ∧ ((w.raw .current).mark < 0 ∧ (0 : Int) ≤ 0) ∧
    -1 ≤ (w.raw .current).mark ∧ (0 : Int) < 1 := ⟨rfl, by decide⟩

/-- `DivotNeedResult`: raw columns -1 to 1 filled, the divot marker at -1, column 0 needed. -/
theorem witness_DivotNeedResult :
    let w := { Worker.fresh with rawc := blackCache, divc := ⟨[], -1⟩ }
    WorkerIs (one.withWorkers [w]) w ∧
    (∀ k : Int, (w.div .current).mark ≤ k → k ≤ 0 + 1 → (w.raw .current).get k = some blackCcvg) ∧
    ((w.div .current).mark < 0 → 0 + 1 ≤ (w.raw .current).mark) ∧
    (w.div .current).mark < 0 ∧ (0 : Int) < 1 := by
  refine ⟨rfl, fun k h1 h2 => ?_, by decide, by decide, by decide⟩
  have h1 : -1 ≤ k := h1
  obtain rfl | rfl | rfl : k = -1 ∨ k = 0 ∨ k = 1 := by omega
  all_goals decide

/-- The caches of a new scanline meet R285, whatever the frame. -/
theorem newCaches_hold (s : State) (w : Worker) (first : Int) (value : Int → CCVG)
    (h : first = accInt s.geom.xStart) :
    CacheHolds (first - 1) value (newCaches s.geom w).rawc ∧
    CacheHolds (first - 1) value (newCaches s.geom w).rawn ∧
    CacheHolds first value (newCaches s.geom w).divc ∧
    CacheHolds first value (newCaches s.geom w).divn := by
  subst h
  refine ⟨⟨?_, ?_, fun _ _ => rfl⟩, ⟨?_, ?_, fun _ _ => rfl⟩, ⟨?_, ?_, fun _ _ => rfl⟩,
    ⟨?_, ?_, fun _ _ => rfl⟩⟩ <;> simp only [newCaches] <;> intros <;> omega

/-- A worker at the start of scanline 0 of a frame, before its first column. -/
def atLine (s : State) : Worker := newCaches s.geom (scanlineLocals s.geom 0 Worker.fresh)

/-- The frame with that worker in turn. -/
def lineOf (s : State) : State := (s.withWorkers [atLine s]).withMe 0

theorem lineOf_turn (s : State) : WorkerIs (lineOf s) (atLine s) := rfl

/-- Its caches meet R285. -/
theorem lineOf_caches (s : State) : ScanlineCaches (lineOf s) (atLine s) := by
  have h := newCaches_hold s (scanlineLocals s.geom 0 Worker.fresh) (firstColumn (lineOf s))
  exact ⟨(h _ rfl).1, (h _ rfl).2.1, fun _ => (h _ rfl).2.2.1, fun _ => (h _ rfl).2.2.2⟩

theorem lineOf_inScanline (s : State) : InScanline (lineOf s) 0 (atLine s) := ⟨rfl, rfl, rfl⟩

/-- The frame `v7` with the divot filter on. -/
def v7Divot : State := v7.withSnap { setupT with control := 0x0212 }

/-- `NeedsFillsBothRows`: the first column, with the divot filter off and on. -/
theorem witness_NeedsFillsBothRows :
    (WorkerIs (lineOf v7) (atLine v7) ∧ ScanlineCaches (lineOf v7) (atLine v7) ∧
      firstColumn (lineOf v7) ≤ 0 ∧ (lineOf v7).ctrl.divot = false) ∧
    (WorkerIs (lineOf v7Divot) (atLine v7Divot) ∧
      ScanlineCaches (lineOf v7Divot) (atLine v7Divot) ∧ firstColumn (lineOf v7Divot) ≤ 0 ∧
      (lineOf v7Divot).ctrl.divot = true) :=
  ⟨⟨lineOf_turn _, lineOf_caches _, by decide +kernel, by decide +kernel⟩,
    ⟨lineOf_turn _, lineOf_caches _, by decide +kernel, by decide +kernel⟩⟩

/-- A worker whose caches hold black in columns -1 to 1. -/
def blackWorker : Worker := placedWorker .blend

/-- `SelectionResult`: the first and the last filled column, one that is not, the divot filter on and
off. -/
theorem witness_SelectionResult :
    WorkerIs (one.withWorkers [blackWorker]) blackWorker ∧
    (one.withSnap { e1 with control := 0x12 }).ctrl.divot = true ∧ one.ctrl.divot = false ∧
    (blackWorker.div .current).get (-1) = some blackCcvg ∧
    (blackWorker.raw .next).get 1 = some blackCcvg ∧
    (blackWorker.div blackWorker.selRow).get blackWorker.selCol = some blackCcvg ∧
    (blackWorker.div .current).get 2 = none ∧ (blackWorker.raw .next).get 2 = none ∧
    (let w := { blackWorker with selCol := 2 }
     WorkerIs (one.withWorkers [w]) w ∧ (w.div w.selRow).get w.selCol = none) :=
  ⟨rfl, by decide, by decide, by decide, by decide, by decide, by decide, by decide, rfl, by decide⟩

/-- `BlendRowsResult`: the four samples of column 0, the worker's own column and weights, with the
divot filter off and on. -/
theorem witness_BlendRowsResult :
    WorkerIs (one.withWorkers [blackWorker]) blackWorker ∧
    (∀ d, selected d blackWorker .current 0 = some blackCcvg ∧
      selected d blackWorker .current (0 + 1) = some blackCcvg ∧
      selected d blackWorker .next 0 = some blackCcvg ∧
      selected d blackWorker .next (0 + 1) = some blackCcvg) ∧
    (0 : Int) = blackWorker.lineX ∧ 0#5 = blackWorker.xfrac ∧ 0#5 = blackWorker.yfrac :=
  ⟨rfl, by decide, by decide⟩

/-- `WriteResult`: the first and the last word of the buffer, and the two beside them. -/
theorem witness_WriteResult :
    Prescale.wf State.reset.prescale = true ∧
    (let i (g : Geometry) (y x : Nat) : Int := g.prescalePtr + g.linecount * y + x
     i Geometry.zero 0 0 = 0 ∧ i { Geometry.zero with linecount := 640 } 624 639 = 399999 ∧
     i { Geometry.zero with prescalePtr := -1 } 0 0 < 0 ∧
     400000 ≤ i { Geometry.zero with linecount := 640 } 625 0) := by decide

/-- `ColumnWritesPix`: columns of the first scanline of setup `T`, those at the edges of the border on
both sides. -/
theorem witness_ColumnWritesPix :
    WorkerIs (lineOf v7) (atLine v7) ∧ InScanline (lineOf v7) 0 (atLine v7) ∧
    ScanlineCaches (lineOf v7) (atLine v7) ∧ 0 ≤ (lineOf v7).geom.xAdd ∧
    Prescale.wf (lineOf v7).prescale = true ∧
    (let i (x : Nat) : Int :=
      (lineOf v7).geom.prescalePtr + (lineOf v7).geom.linecount * (0 : Nat) + x
     (0 ≤ i 7 ∧ i 7 < 400000 ∧ ((7 : Nat) : Int) < (lineOf v7).geom.minhpass) ∧
     (0 ≤ i 25 ∧ i 25 < 400000 ∧ (lineOf v7).geom.maxhpass ≤ (25 : Nat)) ∧
     (0 ≤ i 8 ∧ (lineOf v7).geom.minhpass ≤ (8 : Nat) ∧ ((8 : Nat) : Int) < (lineOf v7).geom.maxhpass) ∧
     (i 24 < 400000 ∧ (lineOf v7).geom.minhpass ≤ (24 : Nat) ∧
       ((24 : Nat) : Int) < (lineOf v7).geom.maxhpass)) :=
  ⟨lineOf_turn _, lineOf_inScanline _, lineOf_caches _, by decide +kernel, by decide +kernel,
    by decide +kernel⟩

/-- `UnityScaleIdentity`: the registers of V7.7, in both formats, at the visible column. -/
theorem witness_UnityScaleIdentity :
    (let s := resolved { setupT with
       xScale := 0x400, yScale := 0x400, hStart := 0x006C007C, control := 0x0302 }
     s.geom.xAdd = 0x400 ∧ s.geom.yAdd = 0x400 ∧ s.ctrl.aaMode = .replicate ∧
     s.ctrl.divot = false ∧ s.ctrl.ditherFilter = false ∧ s.ctrl.gamma = false ∧
     s.ctrl.gammaDither = false ∧ s.geom.minhpass ≤ (8 : Nat) ∧ ((8 : Nat) : Int) < s.geom.maxhpass ∧
     s.ctrl.ctype = .rgba16) ∧
    (State.reset.withSnap { e1 with control := 0x0303 }).ctrl.ctype = .rgba32 := by decide +kernel

/-- The state the prologue of R320 leaves of a frame's registers. -/
def prologue (r : Regs) : State :=
  resolveTv (resolveCtrl (resolveExtent (takeSnapshot (State.reset.withRegs r)))).state

/-- `FastGeometryAndFitResult`: each test of R320 and a frame that passes them, and both sides of
R321. -/
theorem witness_FastGeometryAndFitResult :
    ((prologue { e1 with vSync := 670 }).geom.vSync = 670 ∧
      (prologue { e1 with vSync := 34 }).geom.vSync = 34) ∧
    (let p := prologue { e1 with xScale := 0 }
     p.geom.vSync = 525 ∧ Int.tdiv (p.geom.xAdd * p.geom.hres) 1024 ≤ 0) ∧
    (let p := prologue { e1 with control := 0x42, vCurrentLine := 1 }
     ¬(Int.tdiv (p.geom.xAdd * p.geom.hres) 1024 ≤ 0 ∨
       Int.tdiv (p.geom.yAdd * p.geom.vres) 1024 ≤ 0) ∧
     p.ctrl.serrate = true ∧ p.geom.parity = true) ∧
    (let s := (State.reset.withRegs { e1 with control := 0 }).withCfgCopy
       { resetCfg with intent := .colorFast }
     s.cfgCopy.intent = .colorFast ∧ (prologue s.regs).geom.hasData = false) ∧
    (prologue { e1 with origin := 0 }).geom.origin = 0 ∧ (prologue e1).geom.origin ≠ 0 ∧
    ((400000 : Int) < 400001 * 1 ∧ (400000 : Int) * 1 ≤ 400000) := by decide +kernel

/-- `FastPixelWrites`: the first and the last word, and each fast intent. -/
theorem witness_FastPixelWrites :
    (∀ i c, WorkerIs (((setupF i c).withWorkers [Worker.fresh]).withMe 0) Worker.fresh) ∧
    Prescale.wf (setupF .colorFast 2).prescale = true ∧
    ((setupF .colorFast 2).cfgCopy.intent ≠ .normal ∧
      (setupF .colorFast 2).ctrl.ctype = .rgba16) ∧
    (setupF .colorFast 3).ctrl.ctype = .rgba32 ∧
    (setupF .depthFast 0).cfgCopy.intent = .depthFast ∧
    (setupF .coverageFast 0).cfgCopy.intent = .coverageFast ∧
    (((0 : Nat) : Int) * (setupF .colorFast 2).geom.hresRaw + (0 : Nat) = 0 ∧
      ((1 : Nat) : Int) * (setupF .colorFast 2).geom.hresRaw + (399997 : Nat) = 399999) :=
  ⟨fun _ _ => rfl, by decide +kernel, by decide +kernel, by decide +kernel,
    by decide +kernel, by decide +kernel, by decide +kernel⟩

/-- `ModeSwitchResult`: no change of intent, and one. -/
theorem witness_ModeSwitchResult :
    State.reset.cfgCopy.intent = State.reset.lastIntent ∧
    (State.reset.withCfgCopy { resetCfg with intent := .coverageFast }).cfgCopy.intent
      ≠ State.reset.lastIntent := by decide

/-- `RectanglesResult`: the frame of `E1`, and both empty rectangles. -/
theorem witness_RectanglesResult :
    (let g := (resolved e1).geom
     0 < g.vSync ∧ 0 < g.vactive ∧ 0 < g.maxhpass - g.minhpass ∧ g.hres ≠ 0) ∧
    State.reset.geom.vactive ≤ 0 ∧ State.reset.geom.maxhpass - State.reset.geom.minhpass ≤ 0 := by
  decide +kernel

/-- `PictureEventsResult`, `BitmapResult`: the picture of V9.7, its first and its last pixel; a
picture of the whole buffer; a target of height 0; a target of another height and of the same. -/
theorem witness_BitmapResult :
    (v97.desc.inBuffer = true ∧ 0 < v97.desc.height ∧ 0 < v97.desc.width ∧
      0 ≤ v97.desc.targetHeight) ∧
    (((0 : Nat) : Int) < v97.desc.height ∧ ((1 : Nat) : Int) < v97.desc.height ∧
      ((0 : Nat) : Int) < v97.desc.width ∧ ((1 : Nat) : Int) < v97.desc.width) ∧
    (((0 : Nat) : Int) < v97.desc.targetHeight ∧ ((3 : Nat) : Int) < v97.desc.targetHeight) ∧
    (⟨0, 640, 625, 640, 0⟩ : Desc).inBuffer = true ∧ v97.desc.height ≠ v97.desc.targetHeight ∧
    (let d : Desc := ⟨0, 2, 2, 2, 2⟩
     d.inBuffer = true ∧ 0 < d.height ∧ 0 < d.width ∧ 0 ≤ d.targetHeight ∧
       ((1 : Nat) : Int) < d.targetHeight ∧ ((1 : Nat) : Int) < d.width ∧
       d.height = d.targetHeight) := by decide

/-- `InitResult`: an unconstructed dispatcher and one that is ready, both requests. -/
theorem witness_InitResult :
    HostMay State.reset ∧ State.reset.disp.state = .unconstructed ∧
    State.reset.cfg.workersReq.toNat = 0 ∧
    (let s := scripted [.cfgwr none (some 1) none none, .init] State.reset
     s.fault.valid = false ∧ s.phase = .idle ∧ s.disp.state ≠ .unconstructed ∧
     s.cfg.workersReq.toNat ≠ 0) :=
  ⟨⟨rfl, rfl⟩, by decide, by decide, by decide +kernel⟩

/-- An idle block whose dispatcher has the given state. -/
def idleWith (st : DispState) : State := State.reset.withDisp { State.reset.disp with state := st }

/-- `HostRegisterCommandsResult`, `TeardownResult`: each dispatcher state. -/
theorem witness_TeardownResult :
    (∀ st, HostMay (idleWith st) ∧ (idleWith st).env = [] ∧ (idleWith st).disp.state = st) :=
  fun _ => ⟨⟨rfl, rfl⟩, rfl, rfl⟩

/-- `UpdateStartsTheSequence`: the normal intent and another. -/
theorem witness_UpdateStartsTheSequence :
    HostMay State.reset ∧ State.reset.cfg.intent = .normal ∧
    (State.reset.withCfg { resetCfg with intent := .depthFast }).cfg.intent ≠ .normal :=
  ⟨⟨rfl, rfl⟩, by decide, by decide⟩

/-- `HostPortRefuses`: a command and a write, with the fault register set, and outside `Idle`. -/
theorem witness_HostPortRefuses :
    encode .update ≠ .seq ∧ (∀ st m, encode .update ≠ .mode st m) ∧
    (∀ w path, HostAction.aux 0 1 ≠ .command w path) ∧
    (State.reset.withFault ⟨true, 1, 0⟩).fault.valid = true ∧
    ((State.reset.withPhase .compose).fault.valid = false ∧
      (State.reset.withPhase .compose).phase ≠ .idle) :=
  ⟨by decide, (by intro st m h; cases h), (by intro w p h; cases h), by decide, by decide⟩

/-- `RunAndWorkerFailureResult`: each dispatcher state, and a failure of a busy worker in a round. -/
theorem witness_RunAndWorkerFailureResult :
    (∀ st, (idleWith st).disp.state = st) ∧
    (let s := ((State.reset.withPhase .render).withDisp
       ⟨.running, 2, some .fast, [.done, .busy], false⟩).withEnv [.workerFailure 1]
     s.env = .workerFailure 1 :: [] ∧ s.phase ≠ .halted ∧ s.disp.state = .running ∧
     (s.disp.wstat[1]? = some .pending ∨ s.disp.wstat[1]? = some .busy)) :=
  ⟨fun _ => rfl, by decide⟩

/-- A round of two workers, the first of them done. -/
def roundOf (st : WStat) (w : Worker) : State :=
  ((State.reset.withPhase .render).withDisp ⟨.running, 2, some .filt, [.done, st], false⟩).withWorkers
    [Worker.fresh, w]

/-- A round of two workers that both still have a step. -/
def roundOfTwo (a b : WStat) : State :=
  ((State.reset.withPhase .render).withDisp ⟨.running, 2, some .filt, [a, b], false⟩).withWorkers
    [Worker.fresh, Worker.fresh]

/-- Of the first round, the turn is the second worker's. -/
theorem roundOf_turn (w : Worker) : WorkerTurn (roundOf .busy w) 1 w :=
  workerTurn_of_one rfl (by intro h; cases h) rfl (show unfinished [.done, .busy] = [1] by decide) rfl

/-- `RoundSteps`: of two workers that still have a step, one has the turn, and it is about to start
or about to end. -/
theorem witness_RoundSteps_two :
    (∃ i w, WorkerTurn (roundOfTwo .pending .pending) i w ∧
      (roundOfTwo .pending .pending).disp.wstat[i]? = some .pending) ∧
    (∃ i w, WorkerTurn (roundOfTwo .busy .busy) i w ∧
      (roundOfTwo .busy .busy).disp.wstat[i]? = some .busy) := by
  constructor
  · obtain ⟨i, w, h, hi⟩ := exists_workerTurn (s := roundOfTwo .pending .pending) rfl (by decide) rfl
      rfl (by decide)
    refine ⟨i, w, h, ?_⟩
    rw [show unfinished (roundOfTwo .pending .pending).disp.wstat = [0, 1] from by decide] at hi
    rcases List.mem_pair.1 hi with rfl | rfl <;> rfl
  · obtain ⟨i, w, h, hi⟩ := exists_workerTurn (s := roundOfTwo .busy .busy) rfl (by decide) rfl
      rfl (by decide)
    refine ⟨i, w, h, ?_⟩
    rw [show unfinished (roundOfTwo .busy .busy).disp.wstat = [0, 1] from by decide] at hi
    rcases List.mem_pair.1 hi with rfl | rfl <;> rfl

/-- `RoundSteps`: a worker about to start, one about to end, and a round that is over. -/
theorem witness_RoundSteps :
    ((roundOf .pending .fresh).workers.length = (roundOf .pending .fresh).disp.wstat.length ∧
      ∃ st ∈ (roundOf .pending .fresh).disp.wstat, st = .pending ∨ st = .busy) ∧
    WorkerTurn (roundOf .pending .fresh) 1 .fresh ∧
    (roundOf .pending .fresh).disp.wstat[1]? = some .pending ∧
    WorkerTurn (roundOf .busy .fresh) 1 .fresh ∧
    ((roundOf .busy .fresh).disp.wstat[1]? = some .busy ∧ Worker.fresh.seq = []) ∧
    ((roundOf .done .fresh).env = [] ∧ (roundOf .done .fresh).phase ≠ .halted ∧
      (roundOf .done .fresh).disp.state = .running ∧ (roundOf .done .fresh).disp.stopReq = false ∧
      ∀ st ∈ (roundOf .done .fresh).disp.wstat, st = .done) :=
  ⟨by decide, workerTurn_of_one rfl (by decide) rfl (by decide) rfl, rfl,
    workerTurn_of_one rfl (by decide) rfl (by decide) rfl, ⟨rfl, rfl⟩, rfl, by decide, rfl, rfl,
    by decide⟩

/-- A round that is over, and that a teardown waits for. -/
def stopping : State :=
  let s := roundOf .done .fresh
  s.withDisp { s.disp with stopReq := true }

/-- `RoundSteps`, `TeardownResult`: the barrier of a round that a teardown waits for. -/
theorem witness_RoundSteps_stopping :
    stopping.env = [] ∧ stopping.phase ≠ .halted ∧ stopping.disp.state = .running ∧
    stopping.disp.stopReq = true ∧ ∀ st ∈ stopping.disp.wstat, st = .done :=
  ⟨rfl, by decide, rfl, rfl, by decide⟩

/-- R160: a teardown that waited for the barrier stops the pool, and the join tears it down. -/
theorem test_barrier_stops :
    (made (step stopping)).disp.state = .stopping ∧
    (made (step (made (step stopping)))).disp.state = .tornDown := by decide +kernel

/-- `HaltedAcceptsOnlyReset`: a halted block with a reset coming, and with a host action pending. -/
theorem witness_HaltedAcceptsOnlyReset :
    let s := made (exec (.dispRun .filt) State.reset)
    s.fault.valid = true ∧ s.phase = .halted ∧ (s.withEnv [.reset]).env.head? = some .reset ∧
    s.env = [] ∧ (s.withHost [.command 2 []]).host ≠ [] := by decide +kernel

/-- `StepRunsTheDecodedOperation`: a command, an issued operation and a stage of the engine, and an
operation and a stage of a worker. -/
theorem witness_StepRunsTheDecodedOperation :
    (let s := State.reset.withHost [.command 0x11 []]
     EngineTurn s ∧ s.seq = [] ∧ s.phase = .idle ∧ s.host = .command 0x11 [] :: [] ∧
       decodeCmd 0x11 [] = .ok .update) ∧
    (EngineTurn (updating setupT) ∧
      ∃ r, (updating setupT).seq = .op .resSnap :: r) ∧
    (let s := (State.reset.withPhase .compose).withSeq [.stage .compose]
     EngineTurn s ∧ s.seq = .stage .compose :: [] ∧
       decodeMode .compose s.mode = .ok .composeFull) ∧
    (let w := { Worker.fresh with seq := [.op .cacheNew] }
     WorkerTurn (roundOf .busy w) 1 w ∧ (roundOf .busy w).disp.wstat[1]? = some .busy ∧
       w.seq = .op .cacheNew :: []) ∧
    (let w := { Worker.fresh with seq := [.stage .gamma] }
     WorkerTurn (roundOf .busy w) 1 w ∧ w.seq = .stage .gamma :: [] ∧
       decodeMode .gamma (roundOf .busy w).mode = .ok .gammaOff) :=
  ⟨⟨⟨rfl, by decide, by decide⟩, rfl, rfl, rfl, rfl⟩, ⟨⟨rfl, by decide, by decide⟩, _, rfl⟩,
    ⟨⟨rfl, by decide, by decide⟩, rfl, rfl⟩,
    ⟨roundOf_turn _, rfl, rfl⟩, ⟨roundOf_turn _, rfl, rfl⟩⟩

/-- An engine in `Compose` whose next issued operation is the given one. -/
def composing (op : SeqOp) : State := (State.reset.withPhase .compose).withSeq [op]

/-- It is the engine's turn there. -/
theorem composing_turn (op : SeqOp) : EngineTurn (composing op) :=
  ⟨rfl, (by intro h; cases h), (by intro h; cases h)⟩

/-- `StepRunsEveryOtherMove`, the engine: a change of phase, the end, the snapshot with and without a
request, and a stage without a row, one with a listed complement and one without. -/
theorem witness_StepRunsEveryOtherMove_engine :
    (∀ op, EngineTurn (composing op) ∧ (composing op).seq = op :: []) ∧
    (EngineTurn ((composing .snapshotIfPending).withSnapreq ⟨true, []⟩) ∧
      ((composing .snapshotIfPending).withSnapreq ⟨true, []⟩).snapreq.pending = true) ∧
    (composing .snapshotIfPending).snapreq.pending = false ∧
    (decodeMode .widescreen (composing (.stage .widescreen)).mode = .error (.noModeRow .widescreen) ∧
      Stage.widescreen ∈ [Stage.restore, .divot, .field, .widescreen]) ∧
    (let s := (composing (.stage .compose)).withCfgCopy { resetCfg with intent := .depthFast }
     EngineTurn s ∧ s.seq = .stage .compose :: [] ∧
       decodeMode .compose s.mode = .error (.noModeRow .compose) ∧
       Stage.compose ∉ [Stage.restore, .divot, .field, .widescreen]) :=
  ⟨fun op => ⟨composing_turn op, rfl⟩, ⟨⟨rfl, by decide, by decide⟩, rfl⟩, rfl,
    ⟨rfl, by decide⟩, ⟨rfl, by decide, by decide⟩, rfl, rfl, by decide⟩

/-- `StepRunsEveryOtherMove`, a worker: a pixel of the fast task, and a stage without a row, one with
a listed complement and one without. -/
theorem witness_StepRunsEveryOtherMove_worker :
    (∀ op, let w := { Worker.fresh with seq := [op] }
      WorkerTurn (roundOf .busy w) 1 w ∧ (roundOf .busy w).disp.wstat[1]? = some .busy ∧
        w.seq = op :: []) ∧
    decodeMode .divot (roundOf .busy { Worker.fresh with seq := [.stage .divot] }).mode
      = .error (.noModeRow .divot) ∧
    (let w := { Worker.fresh with seq := [.stage .fetch] }
     let s := (roundOf .busy w).withCfgCopy { resetCfg with intent := .coverageFast }
     WorkerTurn s 1 w ∧ s.disp.wstat[1]? = some .busy ∧ w.seq = .stage .fetch :: [] ∧
       decodeMode .fetch s.mode = .error (.noModeRow .fetch) ∧
       Stage.fetch ∉ [Stage.restore, .divot, .field, .widescreen]) :=
  ⟨fun _ => ⟨roundOf_turn _, rfl, rfl⟩, rfl,
    workerTurn_of_one rfl (by decide) rfl (by decide) rfl, rfl, rfl, rfl, by decide⟩

/-- `StepRunsEveryOtherMove`, the host and the environment: a write pending and nothing pending, a
quiet event, and a worker failure in a halted block, outside a round and of a worker that is done. -/
theorem witness_StepRunsEveryOtherMove_outside :
    (EngineTurn (State.reset.withHost [.zb 1]) ∧ (State.reset.withHost [.zb 1]).seq = [] ∧
      (State.reset.withHost [.zb 1]).phase = .idle ∧
      (State.reset.withHost [.zb 1]).host = .zb 1 :: []) ∧
    (EngineTurn State.reset ∧ State.reset.seq = [] ∧ State.reset.host = []) ∧
    (State.reset.withEnv [.quiet, .reset]).env = .quiet :: [.reset] ∧
    (∀ s : State, (s.withEnv [.workerFailure 0]).env = .workerFailure 0 :: []) ∧
    (State.reset.withPhase .halted).phase = .halted ∧ State.reset.disp.state ≠ .running ∧
    ((roundOf .busy .fresh).disp.wstat[0]? ≠ some .pending ∧
      (roundOf .busy .fresh).disp.wstat[0]? ≠ some .busy) :=
  ⟨⟨⟨rfl, by decide, by decide⟩, rfl, rfl, rfl⟩, ⟨⟨rfl, by decide, by decide⟩, rfl, rfl⟩, rfl,
    fun _ => rfl, rfl, by decide, by decide⟩

/-- `ResetResult`: a reset of the environment, and one that leads out of `Halted`. -/
theorem witness_ResetResult :
    (State.reset.withEnv [.reset, .quiet]).env = .reset :: [.quiet] ∧
    (let s := (made (exec (.dispRun .filt) State.reset)).withEnv [.reset]
     s.fault.valid = true ∧ s.phase = .halted ∧ (∃ t, step s = .next t) ∧
       (made (step s)).phase ≠ .halted) :=
  ⟨rfl, rfl, rfl, ⟨_, rfl⟩, by decide⟩

/-- A block in its first round, about to render the last pixel of a scanline. -/
def rendering : State :=
  roundOf .busy { Worker.fresh with seq := [.op .cacheNew] }

/-- The control invariant holds of it. -/
theorem rendering_inv : ControlInv rendering where
  halted := by decide
  statuses := rfl
  pool := rfl
  constructed := by decide
  unconstructed := by decide
  task := by decide
  issued := rfl
  workersIssued := by decide
  xAdd := by decide
  yAdd := by decide
  vSync := by decide
  width := by decide

/-- `OutputIsAppendOnly`, `DispatcherMovesAlongItsEdges`, `DataInvariantIsKept` and
`ControlInvariantIsKept`: a state that meets both invariants, with a round in flight, and the step it
takes. -/
theorem witness_Invariants :
    ControlInv rendering ∧ DataInv rendering = true ∧ rendering.env = [] ∧
    rendering.phase ≠ .halted ∧ rendering.disp.state = .running ∧ ∃ t, step rendering = .next t :=
  ⟨rendering_inv, by decide, rfl, by decide, rfl, _, rfl⟩

/-- `RecordsHaveTheirWriters`: an operation that completes and writes none of the records but `OUT`,
one that does not write `OUT` either, and records that a rule says are sticky. -/
theorem witness_RecordsHaveTheirWriters :
    (∃ t, exec .present State.reset = .next t) ∧ (∀ a, Instr.present ≠ .cfgwr a) ∧
    (∃ t, exec .bmp State.reset = .next t) ∧
    (Instr.bmp ∉ ([.resCtrl, .resVactive, .resFit, .fastGeom, .fastFit, .dispRun .filt,
      .dispRun .fast, .sink, .snapshot, .present] : List Instr)) ∧
    (State.reset.withWarned ⟨true, true⟩).warned = ⟨true, true⟩ ∧
    (State.reset.withInterlace ⟨false, false, 0, false, .software⟩).interlace.authority
      ≠ .undetermined :=
  ⟨⟨_, rfl⟩, (by intro a h; cases h), ⟨_, rfl⟩, by decide, rfl, by decide⟩

end Sys2Proof.Tests
end

section
/-! The proofs of the dispatcher's statements (40_dispatcher.md): `DISP.RUN` by the state of the
dispatcher, and the failure of a worker in a round. -/

namespace Sys2Proof.Machine

/-! ## `DISP.RUN`, state by state -/

/-- The meaning of `DISP.RUN`. -/
theorem exec_dispRun (task : Task) (s : State) : exec (.dispRun task) s = execDispRun task s := rfl

/-- R162: the broadcast records the task and makes every worker pending; it writes neither `DISP.W`
nor the stop request. -/
theorem broadcast_eq (task : Task) (s : State) : broadcast task s = s.withDisp
    ⟨.running, s.disp.w, some task, s.disp.wstat.map fun _ => .pending, s.disp.stopReq⟩ := rfl

/-- R162: a ready dispatcher broadcasts. -/
theorem execDispRun_of_ready {s : State} (h : s.disp.state = .ready) (task : Task) :
    execDispRun task s = .next (broadcast task s) := by
  simp only [execDispRun, h]

/-- R167: no second round while one runs. -/
theorem execDispRun_of_running {s : State} (h : s.disp.state = .running) (task : Task) :
    execDispRun task s = .refused .reentrantRun := by
  simp only [execDispRun, h]

/-- R170: the fatal error is raised of the state as it stands, with nothing of a round written. -/
theorem execDispRun_of_unusable {s : State}
    (h : s.disp.state = .stopping ∨ s.disp.state = .tornDown ∨ s.disp.state = .unconstructed)
    (task : Task) : execDispRun task s = .next (raiseFatal .illegalState 0 s) := by
  rcases h with h | h | h <;> simp only [execDispRun, h]

/-! ## The failure of a worker -/

/-- The environment's event is the whole step: no agent of the block moves with it. -/
theorem step_of_workerFailure {s : State} {wid : Nat} {rest : List EnvEvent}
    (h : s.env = .workerFailure wid :: rest) :
    step s = .next (workerFailure wid (s.withEnv rest)) := by
  simp only [step, envStep, h]

/-- R171: the failure of a worker that a round waits for is fatal. -/
theorem workerFailure_of_inRound {s : State} {wid : Nat} (hphase : s.phase ≠ .halted)
    (hrunning : s.disp.state = .running)
    (hstat : s.disp.wstat[wid]? = some .pending ∨ s.disp.wstat[wid]? = some .busy) :
    workerFailure wid s = raiseFatal .workerFailure wid s :=
  if_pos ⟨hphase, hrunning, hstat⟩

end Sys2Proof.Machine

namespace Sys2Proof.Proofs

open Sys2Proof.Machine

/-- Settles O48: `DISP.RUN` by the state of the dispatcher, and the failure of a worker, which is
in the round just as well once the event is taken off the list. -/
theorem runAndWorkerFailureResult : Obligations.RunAndWorkerFailureResult := by
  refine ⟨fun s task => ⟨fun hready => ?_, fun hrunning => ?_, fun hunusable => ?_⟩,
    fun s wid rest henv hphase hrunning hstat => ?_⟩
  · rw [exec_dispRun, execDispRun_of_ready hready, broadcast_eq]
  · rw [exec_dispRun, execDispRun_of_running hrunning]
  · rw [exec_dispRun, execDispRun_of_unusable hunusable]
  · have hfatal : workerFailure wid (s.withEnv rest)
        = raiseFatal .workerFailure wid (s.withEnv rest) :=
      workerFailure_of_inRound (by simpa using hphase) (by simpa using hrunning)
        (by simpa using hstat)
    rw [step_of_workerFailure henv, hfatal]

end Sys2Proof.Proofs
end

section
/-! The proofs of the filters' statements (41_filters.md): what the fetch returns by the colour
type, the divot filter, the linear blend and the gamma stage. -/

namespace Sys2Proof.Machine

/-! ## Bit fields as numbers -/

/-- A concatenation is a sum of its parts: they do not overlap. -/
theorem toNat_append_add {m n : Nat} (a : BitVec m) (b : BitVec n) :
    (a ++ b).toNat = a.toNat * 2 ^ n + b.toNat := by
  rw [BitVec.toNat_append, ← Nat.shiftLeft_add_eq_or_of_lt b.isLt, Nat.shiftLeft_eq]

/-- A bit field as quotient and remainder. -/
theorem toNat_extractLsb'_div {n : Nat} (x : BitVec n) (start len : Nat) :
    (x.extractLsb' start len).toNat = x.toNat / 2 ^ start % 2 ^ len := by
  rw [BitVec.extractLsb'_toNat, Nat.shiftRight_eq_div_pow]

/-- An integer that a byte can hold is the byte's value. -/
theorem toNat_ofInt_byte {v : Int} (hlo : 0 ≤ v) (hhi : v < 256) :
    ((BitVec.ofInt 8 v).toNat : Int) = v := by
  rw [BitVec.toNat_ofInt]
  omega

/-! ## Pixels and coverage (30_encoding.md R133, R134) -/

/-- R133: an expanded channel is eight times its five bits. -/
theorem expand5_extractLsb' (pix : Half) (start : Nat) :
    expand5 (pix.extractLsb' start 5) = BitVec.ofNat 8 (8 * (pix.toNat / 2 ^ start % 32)) := by
  apply BitVec.eq_of_toNat_eq
  rw [expand5, toNat_append_add, toNat_extractLsb'_div, BitVec.toNat_ofNat, BitVec.toNat_ofNat]
  omega

/-- R133: the colour of a 16-bit pixel, read as a number. -/
theorem rgb16_eq (pix : Half) : rgb16 pix = ⟨BitVec.ofNat 8 (8 * (pix.toNat / 2048)),
    BitVec.ofNat 8 (8 * (pix.toNat / 64 % 32)), BitVec.ofNat 8 (8 * (pix.toNat / 2 % 32))⟩ := by
  have hred : pix.toNat / 2 ^ 11 % 32 = pix.toNat / 2048 := by
    have := pix.isLt
    omega
  rw [rgb16, expand5_extractLsb', expand5_extractLsb', expand5_extractLsb', hred]
  rfl

/-- A byte of a word, read as a number. -/
theorem extractLsb'_byte (pix : Word) (start : Nat) :
    pix.extractLsb' start 8 = BitVec.ofNat 8 (pix.toNat / 2 ^ start) := by
  apply BitVec.eq_of_toNat_eq
  rw [toNat_extractLsb'_div, BitVec.toNat_ofNat]

/-- R133: the colour of a 32-bit pixel, read as a number. -/
theorem rgb32_eq (pix : Word) : rgb32 pix = ⟨BitVec.ofNat 8 (pix.toNat / 2 ^ 24),
    BitVec.ofNat 8 (pix.toNat / 2 ^ 16), BitVec.ofNat 8 (pix.toNat / 2 ^ 8)⟩ := by
  simp only [rgb32, extractLsb'_byte]

/-- R134: the coverage of a 16-bit pixel. -/
theorem cvg16_toNat (pix : Half) (aux : Byte) :
    (cvg16 pix aux).toNat = 4 * (pix.toNat % 2) + aux.toNat % 4 := by
  rw [cvg16, toNat_append_add, toNat_extractLsb'_div, toNat_extractLsb'_div]
  omega

/-- R134: the coverage of a 32-bit pixel. -/
theorem cvg32_toNat (pix : Word) : (cvg32 pix).toNat = pix.toNat / 32 % 8 :=
  toNat_extractLsb'_div pix 5 3

@[simp] theorem withCvg_cvg (c : RGB) (v : BitVec 3) : (withCvg c v).cvg = v := rfl
@[simp] theorem withCvg_rgb (c : RGB) (v : BitVec 3) : (withCvg c v).rgb = c := rfl

/-! ## Fetch (R190 to R192) -/

/-- R190: the modes that read coverage are the first two. -/
theorem readsCoverage_iff (m : AaMode) :
    readsCoverage m = true ↔ m = .resampExtraAlways ∨ m = .resampExtra := by
  cases m <;> simp [readsCoverage]

/-- The filters leave the coverage. -/
@[simp] theorem filterSample_cvg (s : State) (fmt : Fmt) (c : RGB) (num : Int) (v : BitVec 3) :
    (filterSample s fmt c num v).cvg = v := by
  unfold filterSample
  split <;> rfl

/-- R190, R191: a full pixel passes the restore filter, where the control word turns it on. -/
theorem filterSample_rgb_full (s : State) (fmt : Fmt) (c : RGB) (num : Int) :
    (filterSample s fmt c num 7#3).rgb
      = if s.ctrl.ditherFilter then restoreFilter s fmt c num else c := by
  rw [filterSample, if_pos rfl, withCvg_rgb]

/-- R190, R191: a partly covered pixel passes the anti-aliasing filter. -/
theorem filterSample_rgb_partial (s : State) (fmt : Fmt) (c : RGB) (num : Int) {v : BitVec 3}
    (h : v ≠ 7#3) : (filterSample s fmt c num v).rgb = aaFilter s fmt c num v := by
  rw [filterSample, if_neg h, withCvg_rgb]

/-- The coverage a fetch goes on with: the memory's in the modes that read it, full in the others
(R190, R191). -/
def fetchedCvg (s : State) (v : BitVec 3) : BitVec 3 :=
  if readsCoverage s.ctrl.aaMode then v else 7#3

theorem fetchedCvg_of_reads {s : State}
    (h : s.ctrl.aaMode = .resampExtraAlways ∨ s.ctrl.aaMode = .resampExtra) (v : BitVec 3) :
    fetchedCvg s v = v :=
  if_pos ((readsCoverage_iff _).2 h)

theorem fetchedCvg_of_not_reads {s : State}
    (h : ¬(s.ctrl.aaMode = .resampExtraAlways ∨ s.ctrl.aaMode = .resampExtra)) (v : BitVec 3) :
    fetchedCvg s v = 7#3 :=
  if_neg (mt (readsCoverage_iff _).1 h)

/-- R190: `FETCH.16`, whether or not the mode reads the auxiliary byte. -/
theorem fetch16_eq (s : State) (num : Int) :
    let p := memReadPair16 s (memIndex (base16 s.geom.origin) num)
    fetch16 s num = filterSample s .bits16 (rgb16 p.1) num (fetchedCvg s (cvg16 p.1 p.2)) := by
  unfold fetch16 fetchedCvg
  split <;> rfl

/-- R191: `FETCH.32`. -/
theorem fetch32_eq (s : State) (num : Int) :
    let p := memRead32 s (memIndex (base32 s.geom.origin) num)
    fetch32 s num = filterSample s .bits32 (rgb32 p) num (fetchedCvg s (cvg32 p)) := rfl

/-- R199: the colour type selects the variant. -/
theorem fetch_of_rgba16 {s : State} (h : s.ctrl.ctype = .rgba16) (num : Int) :
    fetch s num = fetch16 s num := by
  simp only [fetch, h]

theorem fetch_of_rgba32 {s : State} (h : s.ctrl.ctype = .rgba32) (num : Int) :
    fetch s num = fetch32 s num := by
  simp only [fetch, h]

theorem fetch_of_noData {s : State} (h : s.ctrl.ctype = .blank ∨ s.ctrl.ctype = .reserved)
    (num : Int) : fetch s num = fetchBlank := by
  rcases h with h | h <;> simp only [fetch, h]

/-- The filters' format is the colour type's. -/
theorem frameFmt_of_rgba16 {c : Ctrl} (h : c.ctype = .rgba16) : frameFmt c = .bits16 := by
  simp only [frameFmt, h]

theorem frameFmt_of_rgba32 {c : Ctrl} (h : c.ctype = .rgba32) : frameFmt c = .bits32 := by
  simp only [frameFmt, h]

/-- R190, R191: what a sample has become, by the coverage it was fetched with; the same for both
formats. -/
theorem filterSample_spec {s : State} {fmt : Fmt} {raw : RGB} {num : Int} {v : BitVec 3}
    {d : CCVG} (hd : d = filterSample s fmt raw num (fetchedCvg s v)) :
    ((s.ctrl.aaMode = .resampExtraAlways ∨ s.ctrl.aaMode = .resampExtra) →
      d.cvg.toNat = v.toNat) ∧
    (¬(s.ctrl.aaMode = .resampExtraAlways ∨ s.ctrl.aaMode = .resampExtra) → d.cvg = 7#3) ∧
    (d.cvg = 7#3 → s.ctrl.ditherFilter = false → d.rgb = raw) ∧
    (d.cvg = 7#3 → s.ctrl.ditherFilter = true → d.rgb = restoreFilter s fmt raw num) ∧
    (d.cvg ≠ 7#3 → d.rgb = aaFilter s fmt raw num d.cvg) := by
  have hcvg : d.cvg = fetchedCvg s v := by rw [hd, filterSample_cvg]
  rw [← hcvg] at hd
  have hfull (h : d.cvg = 7#3) :
      d.rgb = if s.ctrl.ditherFilter then restoreFilter s fmt raw num else raw := by
    rw [hd, h, filterSample_rgb_full]
  refine ⟨fun h => ?_, fun h => ?_, fun h hoff => ?_, fun h hon => ?_, fun h => ?_⟩
  · rw [hcvg, fetchedCvg_of_reads h]
  · rw [hcvg, fetchedCvg_of_not_reads h]
  · rw [hfull h, hoff, if_neg Bool.false_ne_true]
  · rw [hfull h, hon, if_pos rfl]
  · rw [hd, filterSample_cvg, filterSample_rgb_partial s fmt raw num h]

/-! ## Divot (R200) -/

/-- R14: the median as a number, in closed form. -/
theorem median3_toNat (a b c : Byte) : (median3 a b c).toNat
    = max (min a.toNat b.toNat) (min (max a.toNat b.toNat) c.toNat) := by
  simp only [median3, BitVec.le_def]
  split_ifs <;> omega

/-- R200: three full pixels are left alone. -/
theorem divot_of_full {l c r : CCVG} (h : l.cvg = 7#3 ∧ c.cvg = 7#3 ∧ r.cvg = 7#3) :
    divot l c r = c := if_pos h

/-- R200: otherwise each channel's median, with the centre's coverage. -/
theorem divot_of_not_full {l c r : CCVG} (h : ¬(l.cvg = 7#3 ∧ c.cvg = 7#3 ∧ r.cvg = 7#3)) :
    divot l c r = ⟨median3 l.r c.r r.r, median3 l.g c.g r.g, median3 l.b c.b r.b, c.cvg⟩ :=
  if_neg h

/-! ## The linear blend (R201) -/

/-- What a weight below 32 adds of a difference, rounded, lies between nothing and all of it. -/
theorem roundedShare_between (d w : Int) (hw0 : 0 ≤ w) (hw : w ≤ 31) :
    min d 0 ≤ (d * w + 16) / 32 ∧ (d * w + 16) / 32 ≤ max d 0 := by
  rcases le_total 0 d with hd | hd
  · have hlo : 0 ≤ d * w := mul_nonneg hd hw0
    have hhi : d * w ≤ d * 31 := mul_le_mul_of_nonneg_left hw hd
    omega
  · have hlo : d * 31 ≤ d * w := mul_le_mul_of_nonpos_left hw hd
    have hhi : d * w ≤ 0 := mul_nonpos_of_nonpos_of_nonneg hd hw0
    omega

/-- R201: one channel of the blend in exact integers, and between the two it blends, so the byte
that holds it loses nothing. -/
theorem lerpChannel_spec (a b : Byte) (w : BitVec 5) :
    ((lerpChannel a b w).toNat : Int)
      = a.toNat + (((b.toNat : Int) - a.toNat) * w.toNat + 16) / 32 ∧
    min a.toNat b.toNat ≤ (lerpChannel a b w).toNat ∧
    (lerpChannel a b w).toNat ≤ max a.toNat b.toNat := by
  have ha := a.isLt
  have hb := b.isLt
  have hw := w.isLt
  obtain ⟨hlo, hhi⟩ := roundedShare_between ((b.toNat : Int) - a.toNat) w.toNat
    (by omega) (by omega)
  have hexact : ((lerpChannel a b w).toNat : Int)
      = a.toNat + (((b.toNat : Int) - a.toNat) * w.toNat + 16) / 32 :=
    toNat_ofInt_byte (by omega) (by omega)
  exact ⟨hexact, by omega, by omega⟩

/-! ## The gamma tables (R206) -/

/-- The powers of two below `2 ^ k`, the largest first: the bits the root of R206 tries. -/
def rootBits (k : Nat) : List Nat := (List.range k).reverse.map (2 ^ ·)

theorem rootBits_succ (k : Nat) : rootBits (k + 1) = 2 ^ k :: rootBits k := by
  simp [rootBits, List.range_succ]

/-- The seven bits of the model's root are `rootBits 7`. -/
theorem isqrt_eq_foldl (n : Nat) : isqrt n = (rootBits 7).foldl (isqrtBit n) 0 := rfl

/-- One bit halves the interval in which the root lies. -/
theorem isqrtBit_spec {n r : Nat} (b : Nat) (hlo : r * r ≤ n)
    (hhi : n < (r + 2 * b) * (r + 2 * b)) :
    isqrtBit n r b * isqrtBit n r b ≤ n ∧ n < (isqrtBit n r b + b) * (isqrtBit n r b + b) := by
  unfold isqrtBit
  split
  next hfits => exact ⟨hfits, by rwa [show r + b + b = r + 2 * b by omega]⟩
  next hpasses => exact ⟨hlo, not_le.1 hpasses⟩

/-- After the bits below `2 ^ k` the interval holds the root alone. -/
theorem foldl_isqrtBit_spec {n : Nat} (k : Nat) {r : Nat} (hlo : r * r ≤ n)
    (hhi : n < (r + 2 ^ k) * (r + 2 ^ k)) : (rootBits k).foldl (isqrtBit n) r = Nat.sqrt n := by
  induction k generalizing r with
  | zero => exact Nat.eq_sqrt.2 ⟨hlo, hhi⟩
  | succ k ih =>
    obtain ⟨hlo', hhi'⟩ := isqrtBit_spec (2 ^ k) hlo (by rwa [← Nat.pow_succ'])
    rw [rootBits_succ, List.foldl_cons, ih hlo' hhi']

/-- R206: the bit-by-bit root is the integer square root. -/
theorem isqrt_eq_sqrt {n : Nat} (h : n < 16384) : isqrt n = Nat.sqrt n := by
  rw [isqrt_eq_foldl]
  exact foldl_isqrtBit_spec 7 (Nat.zero_le n) h

/-- R206: an entry of either table is twice a root, even, and at most 254. -/
theorem twiceRoot_spec {n : Nat} (h : n < 16384) :
    (BitVec.ofNat 8 (2 * isqrt n)).toNat = 2 * Nat.sqrt n ∧
    (BitVec.ofNat 8 (2 * isqrt n)).toNat % 2 = 0 ∧
    (BitVec.ofNat 8 (2 * isqrt n)).toNat ≤ 254 := by
  have hroot : Nat.sqrt n < 128 := Nat.sqrt_lt.2 h
  rw [isqrt_eq_sqrt h, BitVec.toNat_ofNat]
  omega

/-- R206: `GAMMA_TABLE`. -/
theorem gammaTable_spec (i : Byte) : (gammaTable i).toNat = 2 * Nat.sqrt (64 * i.toNat) ∧
    (gammaTable i).toNat % 2 = 0 ∧ (gammaTable i).toNat ≤ 254 :=
  twiceRoot_spec (by have := i.isLt; omega)

/-- R206: `GAMMA_DITHER_TABLE`. -/
theorem gammaDitherTable_spec (j : BitVec 14) :
    (gammaDitherTable j).toNat = 2 * Nat.sqrt j.toNat ∧
    (gammaDitherTable j).toNat % 2 = 0 ∧ (gammaDitherTable j).toNat ≤ 254 :=
  twiceRoot_spec j.isLt

/-! ## The gamma rows (R207 to R211) -/

/-- R208: one channel takes one noise bit, unless it is at its largest. -/
theorem gammaDitherChannel_toNat (c : Byte) (n : BitVec 15) (i : Nat) :
    (gammaDitherChannel c (n.getLsbD i)).toNat
      = if c.toNat < 255 then c.toNat + n.toNat / 2 ^ i % 2 else c.toNat := by
  have hc := c.isLt
  have hbit : (n.getLsbD i).toNat = n.toNat / 2 ^ i % 2 := by
    rw [← BitVec.testBit_toNat, Nat.toNat_testBit]
  have hfull : c = 255#8 ↔ ¬c.toNat < 255 := by
    rw [← BitVec.toNat_inj, BitVec.toNat_ofNat]
    omega
  unfold gammaDitherChannel
  by_cases h : c.toNat < 255
  · rw [if_neg (by rwa [hfull, not_not]), if_pos h, BitVec.toNat_add, BitVec.toNat_setWidth,
      BitVec.toNat_ofBool, hbit]
    omega
  · rw [if_pos (hfull.2 h), if_neg h]

/-- R208: the row `GAMMA.DITHER`. -/
theorem gammaDitherRgb_makes (n : BitVec 15) (c : RGB) :
    GammaMakes false true n c (gammaDitherRgb c n) :=
  ⟨(gammaDitherChannel_toNat c.r n 0).trans (by rw [pow_zero, Nat.div_one]),
    gammaDitherChannel_toNat c.g n 1, gammaDitherChannel_toNat c.b n 2⟩

/-- R209: the row `GAMMA.TABLE`. -/
theorem gammaTableRgb_makes (n : BitVec 15) (c : RGB) :
    GammaMakes true false n c (gammaTableRgb c) :=
  ⟨(gammaTable_spec c.r).1, (gammaTable_spec c.g).1, (gammaTable_spec c.b).1⟩

/-- R210: six noise bits below a channel index the larger table. -/
theorem gammaDitherTable_append (c : Byte) (v : BitVec 6) :
    (gammaDitherTable (c ++ v)).toNat = 2 * Nat.sqrt (64 * c.toNat + v.toNat) := by
  rw [(gammaDitherTable_spec _).1, toNat_append_add, Nat.mul_comm c.toNat]
  rfl

/-- R210: the row `GAMMA.TABLE_DITHER`, whose blue channel takes its six bits from two places. -/
theorem gammaTableDitherRgb_makes (n : BitVec 15) (c : RGB) :
    GammaMakes true true n c (gammaTableDitherRgb c n) := by
  have hblue : (n.extractLsb' 12 3 ++ n.extractLsb' 0 3).toNat
      = 8 * (n.toNat / 4096 % 8) + n.toNat % 8 := by
    rw [toNat_append_add, toNat_extractLsb'_div, toNat_extractLsb'_div]
    omega
  have hgreen : (n.extractLsb' 6 6).toNat = n.toNat / 64 % 64 := toNat_extractLsb'_div n 6 6
  have hred : (n.extractLsb' 0 6).toNat = n.toNat % 64 := by
    rw [toNat_extractLsb'_div, pow_zero, Nat.div_one]
    rfl
  refine ⟨?_, ?_, ?_⟩
  · rw [← hred]
    exact gammaDitherTable_append c.r _
  · rw [← hgreen]
    exact gammaDitherTable_append c.g _
  · rw [Nat.add_assoc, ← hblue]
    exact gammaDitherTable_append c.b _

/-- R211: the gamma stage is the row that the two control bits select. -/
theorem gammaRgb_makes (s : State) (c : RGB) (y x : Nat) :
    GammaMakes s.ctrl.gamma s.ctrl.gammaDither (ditherNoise s y x) c (gammaRgb s c y x) := by
  unfold gammaRgb
  cases s.ctrl.gamma <;> cases s.ctrl.gammaDither
  case false.false => rfl
  case false.true => exact gammaDitherRgb_makes _ c
  case true.false => exact gammaTableRgb_makes _ c
  case true.true => exact gammaTableDitherRgb_makes _ c

/-! ## The rows, for the worker in turn -/

section Rows

variable {s : State} {w : Worker}

theorem exec_fetch (h : WorkerIs s w) (num : Int) : exec (.fetch num) s
    = .next (s.withWorker { w with num := num, sample := fetch s num }) := onWorker_some h

theorem exec_fetch16 (h : WorkerIs s w) :
    exec .fetch16 s = .next (s.withWorker { w with sample := fetch16 s w.num }) := onWorker_some h

theorem exec_fetch32 (h : WorkerIs s w) :
    exec .fetch32 s = .next (s.withWorker { w with sample := fetch32 s w.num }) := onWorker_some h

theorem exec_fetchBlank (h : WorkerIs s w) :
    exec .fetchBlank s = .next (s.withWorker { w with sample := fetchBlank }) := onWorker_some h

theorem exec_aaFilter (h : WorkerIs s w) (fmt : Fmt) (c : RGB) (num : Int) (cvg : BitVec 3) :
    exec (.aaFilter fmt c num cvg) s
      = .next (s.withWorker { w with rgb := aaFilter s fmt c num cvg }) := onWorker_some h

theorem exec_restoreFilter (h : WorkerIs s w) (fmt : Fmt) (c : RGB) (num : Int) :
    exec (.restoreFilter fmt c num) s
      = .next (s.withWorker { w with rgb := restoreFilter s fmt c num }) := onWorker_some h

theorem exec_restoreOn (h : WorkerIs s w) : exec .restoreOn s
    = .next (s.withWorker { w with rgb := restoreFilter s (frameFmt s.ctrl) w.rgb w.num }) :=
  onWorker_some h

theorem exec_divot (h : WorkerIs s w) (l c r : CCVG) :
    exec (.divot l c r) s = .next (s.withWorker { w with sample := divot l c r }) :=
  onWorker_some h

theorem exec_lerp (h : WorkerIs s w) (a b : CCVG) (f : BitVec 5) :
    exec (.lerp a b f) s = .next (s.withWorker { w with sample := lerp a b f }) :=
  onWorker_some h

theorem exec_gamma (h : WorkerIs s w) (c : RGB) (y x : Nat) :
    exec (.gamma c y x) s = .next (s.withWorker { w with rgb := gammaRgb s c y x }) :=
  onWorker_some h

/-- R207: the row writes the colour back that it found. -/
theorem exec_gammaOff (h : WorkerIs s w) : exec .gammaOff s = .next s :=
  (onWorker_some h).trans (congrArg Host.Outcome.next (withWorker_self h))

theorem exec_gammaDither (h : WorkerIs s w) : exec .gammaDither s = .next
    (s.withWorker { w with rgb := gammaDitherRgb w.rgb (ditherNoise s w.y w.x) }) :=
  onWorker_some h

theorem exec_gammaTable (h : WorkerIs s w) :
    exec .gammaTable s = .next (s.withWorker { w with rgb := gammaTableRgb w.rgb }) :=
  onWorker_some h

theorem exec_gammaTableDither (h : WorkerIs s w) : exec .gammaTableDither s = .next
    (s.withWorker { w with rgb := gammaTableDitherRgb w.rgb (ditherNoise s w.y w.x) }) :=
  onWorker_some h

end Rows

end Sys2Proof.Machine

namespace Sys2Proof.Proofs

open Sys2Proof.Machine

/-- Settles O7: each channel by the rule of one channel. -/
theorem blendResultIsExact : Obligations.BlendResultIsExact := by
  intro s w a b f hw
  obtain ⟨hr, hrlo, hrhi⟩ := lerpChannel_spec a.r b.r f
  obtain ⟨hg, hglo, hghi⟩ := lerpChannel_spec a.g b.g f
  obtain ⟨hb, hblo, hbhi⟩ := lerpChannel_spec a.b b.b f
  exact ⟨lerp a b f, exec_lerp hw a b f, rfl, hr, hg, hb, hrlo, hrhi, hglo, hghi, hblo, hbhi⟩

/-- Settles O10: the two cases of the filter, the second by the median's closed form. -/
theorem divotTakesTheMedian : Obligations.DivotTakesTheMedian := by
  intro s w l c r hw
  refine ⟨divot l c r, exec_divot hw l c r, fun hl hc hr => divot_of_full ⟨hl, hc, hr⟩,
    fun hpartly => ?_⟩
  rw [divot_of_not_full hpartly]
  exact ⟨rfl, median3_toNat _ _ _, median3_toNat _ _ _, median3_toNat _ _ _⟩

/-- Settles O11: the tables by the root's invariant, the rows by what each makes of a colour. -/
theorem gammaRowsResult : Obligations.GammaRowsResult :=
  ⟨⟨fun i => (gammaTable_spec i).1, fun j => (gammaDitherTable_spec j).1,
      fun i => (gammaTable_spec i).2, fun j => (gammaDitherTable_spec j).2⟩,
    fun s _ hw =>
      ⟨fun c y x => ⟨_, exec_gamma hw c y x, gammaRgb_makes s c y x⟩,
        exec_gammaOff hw,
        ⟨_, exec_gammaDither hw, gammaDitherRgb_makes _ _⟩,
        ⟨_, exec_gammaTable hw, gammaTableRgb_makes _ _⟩,
        ⟨_, exec_gammaTableDither hw, gammaTableDitherRgb_makes _ _⟩⟩⟩

/-- Settles O12: each row by its equation; the sample of either format by what the filters make of
the raw pixel and its coverage. -/
theorem fetchRowsResult : Obligations.FetchRowsResult := by
  refine ⟨fun s w hw => ⟨exec_fetch hw, fun h => ?_, fun h => ?_, exec_fetchBlank hw,
    exec_aaFilter hw, exec_restoreFilter hw, fun h => ?_, fun h => ?_⟩,
    fun s num => ⟨fun h => ?_, fun h => ?_, fun h => fetch_of_noData h num⟩⟩
  · rw [exec_fetch16 hw, fetch_of_rgba16 h]
  · rw [exec_fetch32 hw, fetch_of_rgba32 h]
  · rw [exec_restoreOn hw, frameFmt_of_rgba16 h]
  · rw [exec_restoreOn hw, frameFmt_of_rgba32 h]
  · have hspec := filterSample_spec ((fetch_of_rgba16 h num).trans (fetch16_eq s num))
    rwa [rgb16_eq, cvg16_toNat] at hspec
  · have hspec := filterSample_spec ((fetch_of_rgba32 h num).trans (fetch32_eq s num))
    rwa [rgb32_eq, cvg32_toNat] at hspec

end Sys2Proof.Proofs
end

section
/-! The proofs of the resolver's statements (42_resolver.md): the register fields as numbers, the
clamps of the geometry by the sign they test, and the three steps that can end the update. -/

namespace Sys2Proof.Machine

/-! ## The register fields as numbers (30_encoding.md R124 to R131) -/

/-- A bit field as the value cut to its width. -/
theorem extractLsb'_eq_ofNat {n : Nat} (x : BitVec n) (start len : Nat) :
    x.extractLsb' start len = BitVec.ofNat len (x.toNat / 2 ^ start) := by
  apply BitVec.eq_of_toNat_eq
  rw [toNat_extractLsb'_div, BitVec.toNat_ofNat]

theorem fieldStart_eq_ofNat (w : Word) : fieldStart w = BitVec.ofNat 10 (w.toNat / 2 ^ 16) :=
  extractLsb'_eq_ofNat w 16 10

theorem fieldStart_toNat (w : Word) : (fieldStart w).toNat = w.toNat / 2 ^ 16 % 2 ^ 10 :=
  toNat_extractLsb'_div w 16 10

theorem fieldEnd_toNat (w : Word) : (fieldEnd w).toNat = w.toNat % 2 ^ 10 := by
  rw [fieldEnd, toNat_extractLsb'_div, pow_zero, Nat.div_one]

theorem fieldAdd_eq (w : Word) : fieldAdd w = w.toNat % 2 ^ 12 := by
  rw [fieldAdd, toNat_extractLsb'_div, pow_zero, Nat.div_one]

theorem fieldOffset_eq (w : Word) : fieldOffset w = w.toNat / 2 ^ 16 % 2 ^ 12 :=
  toNat_extractLsb'_div w 16 12

theorem fieldVSync_eq (w : Word) : fieldVSync w = w.toNat % 2 ^ 10 := by
  rw [fieldVSync, toNat_extractLsb'_div, pow_zero, Nat.div_one]

theorem fieldWidth_eq (w : Word) : fieldWidth w = w.toNat % 2 ^ 12 := by
  rw [fieldWidth, toNat_extractLsb'_div, pow_zero, Nat.div_one]

theorem fieldOrigin_eq_ofNat (w : Word) : fieldOrigin w = BitVec.ofNat 24 w.toNat := by
  rw [fieldOrigin, extractLsb'_eq_ofNat, pow_zero, Nat.div_one]

theorem fieldParity_eq_decide (w : Word) : fieldParity w = decide (w.toNat % 2 = 1) := by
  rw [fieldParity, BitVec.getLsbD, Nat.testBit_zero]

/-! ## The clamps of the geometry (R235, R241, R243) -/

theorem hclampOf_of_neg {g : Geometry} (h : g.hStart < 0) : hclampOf g = { g with
    xStart := g.xStart + g.xAdd * (-g.hStart)
    hres := g.hres + g.hStart
    hStart := 0
    hStartClamped := true } := if_pos h

theorem hclampOf_of_nonneg {g : Geometry} (h : 0 ≤ g.hStart) : hclampOf g = g :=
  if_neg (Int.not_lt.2 h)

/-- R241: a start two half-lines or more before the porch ends. -/
theorem vporchOf_of_neg {g : Geometry} (h : tdiv (g.vStart - vOffset g) 2 < 0) : vporchOf g =
    { g with yStart := g.yStart + g.yAdd * (-tdiv (g.vStart - vOffset g) 2), vStart := 0 } :=
  if_pos h

/-- R241: a start from one half-line before the porch ends, which the halving takes to row 0. -/
theorem vporchOf_of_nonneg {g : Geometry} (h : 0 ≤ tdiv (g.vStart - vOffset g) 2) :
    vporchOf g = { g with vStart := tdiv (g.vStart - vOffset g) 2 } :=
  if_neg (Int.not_lt.2 h)

/-- R243: a window that does not pass the right edge keeps its width and its flag. -/
theorem canvasHOf_eq (g : Geometry) : canvasHOf g = { g with
    hres := if 640 < g.hres + g.hStart then 640 - g.hStart else g.hres
    hresClamped := g.hresClamped || decide (640 < g.hres + g.hStart) } := by
  unfold canvasHOf
  by_cases h : 640 < g.hres + g.hStart
  · simp [h]
  · simp [h]

/-- R243: a window that does not pass the lower edge keeps its height and its flag. -/
theorem canvasVOf_eq (g : Geometry) : canvasVOf g = { g with
    vres := if 625 < g.vres + g.vStart then 625 - g.vStart else g.vres
    vresClamped := g.vresClamped || decide (625 < g.vres + g.vStart) } := by
  unfold canvasVOf
  by_cases h : 625 < g.vres + g.vStart
  · simp [h]
  · simp [h]

/-! ## The active lines (R244) -/

theorem resolveVactive_of_tooBig {s : State} (h : 625 < (s.geom.vSync : Int) - vOffset s.geom) :
    resolveVactive s = .ended (raiseFatal .syncTooBig s.geom.vSync
      (s.withGeom { s.geom with vactive := s.geom.vSync - vOffset s.geom })) := by
  rcases resolveVactive_cases s with ⟨-, heq⟩ | ⟨hle, -⟩ | ⟨-, hle, -⟩
  · exact heq
  · omega
  · omega

theorem resolveVactive_of_nonpos {s : State} (h : (s.geom.vSync : Int) - vOffset s.geom ≤ 0) :
    resolveVactive s = .ended (skipFrame .noActiveLines
      (s.withGeom { s.geom with vactive := s.geom.vSync - vOffset s.geom })) := by
  rcases resolveVactive_cases s with ⟨hlt, -⟩ | ⟨-, heq⟩ | ⟨hlt, -, -⟩
  · omega
  · exact heq
  · omega

theorem resolveVactive_of_fits {s : State} (hlo : 0 < (s.geom.vSync : Int) - vOffset s.geom)
    (hhi : (s.geom.vSync : Int) - vOffset s.geom ≤ 625) :
    resolveVactive s = .go (s.withGeom { s.geom with
      vactive := if s.ctrl.serrate then s.geom.vSync - vOffset s.geom
        else (s.geom.vSync - vOffset s.geom) / 2 }) := by
  rcases resolveVactive_cases s with ⟨hlt, -⟩ | ⟨hle, -⟩ | ⟨-, -, heq⟩
  · omega
  · omega
  · exact heq

/-! ## The skip tests and the fit (R246, R248) -/

section SkipAndFit

variable {s : State}

theorem resolveSkip_of_blank (hblank : s.ctrl.serrate = false ∧ s.geom.hasData = false) :
    resolveSkip s = .ended (skipFrame .blank s) := if_pos hblank

theorem resolveSkip_of_empty (hblank : ¬(s.ctrl.serrate = false ∧ s.geom.hasData = false))
    (hempty : s.geom.hres ≤ 0 ∨ s.geom.vres ≤ 0) :
    resolveSkip s = .ended (skipFrame .emptyWindow s) := (if_neg hblank).trans (if_pos hempty)

theorem resolveSkip_of_nullOrigin (hblank : ¬(s.ctrl.serrate = false ∧ s.geom.hasData = false))
    (hempty : ¬(s.geom.hres ≤ 0 ∨ s.geom.vres ≤ 0)) (hnull : s.geom.origin = 0) :
    resolveSkip s = .ended (skipFrame .nullOrigin s) :=
  (if_neg hblank).trans ((if_neg hempty).trans (if_pos hnull))

theorem resolveSkip_of_passes (hblank : ¬(s.ctrl.serrate = false ∧ s.geom.hasData = false))
    (hempty : ¬(s.geom.hres ≤ 0 ∨ s.geom.vres ≤ 0)) (hnull : s.geom.origin ≠ 0) :
    resolveSkip s = .go s :=
  (if_neg hblank).trans ((if_neg hempty).trans (if_neg hnull))

theorem resolveFit_of_tooTall
    (h : s.ctrl.serrate = true ∧ 625 < 2 * (s.geom.vStart + s.geom.vres)) :
    resolveFit s = .ended (raiseFatal .prescaleOverflow (s.geom.vStart + s.geom.vres) s) :=
  if_pos h

theorem resolveFit_of_not_tooTall
    (h : ¬(s.ctrl.serrate = true ∧ 625 < 2 * (s.geom.vStart + s.geom.vres))) :
    resolveFit s = .go s := if_neg h

end SkipAndFit

/-! ## The rows -/

/-- R230: a copy of all 14 registers. -/
theorem exec_resSnap (s : State) : exec .resSnap s = .next (s.withSnap s.regs) := rfl

theorem exec_resExtent (s : State) :
    exec .resExtent s = .next (s.withGeom (extentOf s.snap s.geom)) := rfl

/-- R233: the comparison with the threshold is strict. -/
theorem exec_resTv (s : State) : exec .resTv s
    = .next (s.withGeom { s.geom with ispal := decide (550 < s.geom.vSync) }) := rfl

/-- R234: the porch of the frame's standard. -/
theorem exec_resHporch (s : State) : exec .resHporch s = .next (s.withGeom { s.geom with
    hStart := s.geom.hStart - (if s.geom.ispal then 128 else 108) }) := rfl

theorem exec_resHclamp0 (s : State) :
    exec .resHclamp0 s = .next (s.withGeom (hclampOf s.geom)) := rfl

theorem exec_resVporch (s : State) :
    exec .resVporch s = .next (s.withGeom (vporchOf s.geom)) := rfl

theorem exec_resCanvas (s : State) :
    exec .resCanvas s = .next (s.withGeom (canvasVOf (canvasHOf s.geom))) := rfl

theorem exec_resVactive (s : State) : exec .resVactive s = .next (resolveVactive s).state := rfl

theorem exec_resSkip (s : State) : exec .resSkip s = .next (resolveSkip s).state := rfl

theorem exec_resFit (s : State) : exec .resFit s = .next (resolveFit s).state := rfl

end Sys2Proof.Machine

namespace Sys2Proof.Proofs

open Sys2Proof.Machine

/-- Settles O13: the three rows by their equations. -/
theorem snapshotAndStandardResult : Obligations.SnapshotAndStandardResult :=
  ⟨exec_resSnap, fun s => ⟨exec_resTv s, exec_resHporch s⟩⟩

/-- Settles O14: every field of the snapshot read as a number. -/
theorem extentResult : Obligations.ExtentResult := by
  intro s
  rw [exec_resExtent, extentOf, fieldStart_toNat, fieldStart_toNat, fieldEnd_toNat,
    fieldEnd_toNat, fieldStart_eq_ofNat, fieldAdd_eq, fieldAdd_eq, fieldOffset_eq, fieldOffset_eq,
    fieldVSync_eq, fieldParity_eq_decide, fieldWidth_eq, fieldOrigin_eq_ofNat]
  rfl

/-- Settles O16: the two signs of the start. -/
theorem horizontalClampResult : Obligations.HorizontalClampResult := by
  refine fun s => ⟨fun hneg => ?_, fun hnonneg => ?_⟩
  · rw [exec_resHclamp0, hclampOf_of_neg hneg]
  · rw [exec_resHclamp0, hclampOf_of_nonneg hnonneg, State.withGeom_self]

/-- Settles O18: the porch by the sign of the halved start; the horizontal half of the canvas clamp
leaves the fields that the vertical one reads. -/
theorem verticalPorchAndCanvasResult : Obligations.VerticalPorchAndCanvasResult := by
  refine ⟨fun s => ⟨fun hneg => ?_, fun hnonneg => ?_⟩, fun s => ?_⟩
  · rw [exec_resVporch, vporchOf_of_neg hneg]
    rfl
  · rw [exec_resVporch, vporchOf_of_nonneg hnonneg]
    rfl
  · rw [exec_resCanvas, canvasVOf_eq, canvasHOf_eq]

/-- Settles O19: the three ranges of the active-line count, the last by the serrate bit. -/
theorem activeLinesResult : Obligations.ActiveLinesResult := by
  refine fun s => ⟨fun hbig => ?_, fun hnonpos => ?_, fun hlo hhi hserrate => ?_,
    fun hlo hhi hserrate => ?_⟩
  · rw [exec_resVactive, resolveVactive_of_tooBig hbig]
    rfl
  · rw [exec_resVactive, resolveVactive_of_nonpos hnonpos]
    rfl
  · rw [exec_resVactive, resolveVactive_of_fits hlo hhi, hserrate]
    rfl
  · rw [exec_resVactive, resolveVactive_of_fits hlo hhi, hserrate]
    rfl

/-- Settles O21: the skip tests in their order, and both outcomes of the fit test. -/
theorem skipTestsAndFitResult : Obligations.SkipTestsAndFitResult := by
  refine ⟨fun s => ⟨fun hblank => ?_, fun hblank hempty => ?_, fun hblank hempty hnull => ?_,
    fun hblank hempty hnull => ?_⟩, fun s => ⟨fun htall => ?_, fun htall => ?_⟩⟩
  · rw [exec_resSkip, resolveSkip_of_blank hblank, Flow.state_ended]
  · rw [exec_resSkip, resolveSkip_of_empty hblank hempty, Flow.state_ended]
  · rw [exec_resSkip, resolveSkip_of_nullOrigin hblank hempty hnull, Flow.state_ended]
  · rw [exec_resSkip, resolveSkip_of_passes hblank hempty hnull, Flow.state_go]
  · rw [exec_resFit, resolveFit_of_tooTall htall, Flow.state_ended]
  · rw [exec_resFit, resolveFit_of_not_tooTall htall, Flow.state_go]

end Sys2Proof.Proofs
end

section
/-! The proofs of the filtered pipeline's statements (43_pipeline_filtered.md): the lazy fill of a raw
cache, and the selection and blend of the four samples. -/

namespace Sys2Proof.Machine

/-! ## The raw fill (R284) -/

/-- R284: nothing but the raw cache of the row is written. -/
theorem rawNeed_frame (row : SrcRow) (base c : Int) (s : State) (w : Worker) :
    rawNeed row base c s w = w.setRaw row ((rawNeed row base c s w).raw row) := by
  rw [rawNeed, Worker.raw_setRaw]

/-- R284: the marker never falls. -/
theorem rawNeed_mark (row : SrcRow) (base c : Int) (s : State) (w : Worker) :
    ((rawNeed row base c s w).raw row).mark = max (w.raw row).mark c := by
  rw [rawNeed, Worker.raw_setRaw, (rawFill_spec s base _ _).1, Cache.mark_lacks]

/-- R284: a column is fetched exactly when it lies above the marker and up to the needed one. -/
theorem rawNeed_get (row : SrcRow) (base c : Int) (s : State) (w : Worker) (k : Int) :
    ((rawNeed row base c s w).raw row).get k =
      if (w.raw row).mark < k ∧ k ≤ c then some (fetch s (base + k)) else (w.raw row).get k := by
  have habove : (w.raw row).mark < k ∧ k ≤ max (w.raw row).mark c ↔
      (w.raw row).mark < k ∧ k ≤ c := by omega
  rw [rawNeed, Worker.raw_setRaw, (rawFill_spec s base _ _).2, Cache.mark_lacks]
  exact if_congr habove rfl rfl

/-! ## The blend of four filled samples (R289, R290) -/

section Filled

variable {d : Bool} {w : Worker} {cur : Int} {c0 c1 n0 n1 : CCVG}
  (hc0 : selected d w .current cur = some c0)
  (hc1 : selected d w .current (cur + 1) = some c1)
  (hn0 : selected d w .next cur = some n0)
  (hn1 : selected d w .next (cur + 1) = some n1)

include hc0 hc1 hn0 hn1

/-- R290: the horizontal blend of each row, then the vertical one. -/
theorem lerp3_of_filled (xf yf : BitVec 5) :
    lerp3 d w cur xf yf = some (lerp (lerp c0 c1 xf) (lerp n0 n1 xf) yf) := by
  simp only [lerp3, hc0, hc1, hn0, hn1]

/-- R289: the single sample where both weights are 0, else the three blends. -/
theorem blendResample_of_filled (xf yf : BitVec 5) : blendResample d w cur xf yf
    = some (if xf = 0 ∧ yf = 0 then c0 else lerp (lerp c0 c1 xf) (lerp n0 n1 xf) yf) := by
  rw [blendResample, hc0, lerp3_of_filled hc0 hc1 hn0 hn1, apply_ite some]

end Filled

/-- R289: replicate mode takes the single sample, whatever the weights. -/
theorem blend_of_some {c : Ctrl} {w : Worker} {cur : Int} {xf yf : BitVec 5} {c0 mixed : CCVG}
    (hc0 : selected c.divot w .current cur = some c0)
    (hmixed : blendResample c.divot w cur xf yf = some mixed) :
    blend c w cur xf yf = some (if c.aaMode = .replicate then c0 else mixed) := by
  rw [blend, hc0, hmixed, apply_ite some]

/-! ## The rows, for the worker in turn -/

section Rows

variable {s : State} {w : Worker} {v : CCVG}

theorem exec_rawNeed (h : WorkerIs s w) (row : SrcRow) (base c : Int) :
    exec (.rawNeed row base c) s = .next (s.withWorker (rawNeed row base c s w)) :=
  onWorker_some h

/-- A row whose meaning is to leave a chosen colour, with a colour to choose. -/
theorem onWorker_setColour {choose : Worker → Option CCVG} (h : WorkerIs s w)
    (hv : choose w = some v) :
    onWorker s (fun w => setColour (choose w) s w)
      = .next (s.withWorker { w with colour := v }) := by
  rw [onWorker_some h, hv]
  rfl

theorem exec_lerp3 {cur : Int} {xf yf : BitVec 5} (h : WorkerIs s w)
    (hv : lerp3 s.ctrl.divot w cur xf yf = some v) :
    exec (.lerp3 cur xf yf) s = .next (s.withWorker { w with colour := v }) :=
  onWorker_setColour h hv

theorem exec_blend {cur : Int} {xf yf : BitVec 5} (h : WorkerIs s w)
    (hv : blend s.ctrl w cur xf yf = some v) :
    exec (.blend cur xf yf) s = .next (s.withWorker { w with colour := v }) :=
  onWorker_setColour h hv

/-- R289: the three modes that are not `REPLICATE` have one meaning. -/
theorem exec_aaResamp (h : WorkerIs s w)
    (hv : blendResample s.ctrl.divot w w.lineX w.xfrac w.yfrac = some v) :
    exec .aaResampExtraAlways s = .next (s.withWorker { w with colour := v }) ∧
    exec .aaResampExtra s = .next (s.withWorker { w with colour := v }) ∧
    exec .aaResampOnly s = .next (s.withWorker { w with colour := v }) :=
  have hrow := onWorker_setColour h hv
  ⟨hrow, hrow, hrow⟩

theorem exec_aaReplicate (h : WorkerIs s w)
    (hv : selected s.ctrl.divot w .current w.lineX = some v) :
    exec .aaReplicate s = .next (s.withWorker { w with colour := v }) :=
  onWorker_setColour h hv

end Rows

end Sys2Proof.Machine

namespace Sys2Proof.Proofs

open Sys2Proof.Machine

/-- Settles O28: the columns above the marker up to the needed one are fetched, and no other. -/
theorem rawNeedResult : Obligations.RawNeedResult := by
  intro s w row base c hw
  refine ⟨_, exec_rawNeed hw row base c, rawNeed_frame row base c s w,
    rawNeed_mark row base c s w, fun k habove hneeded => ?_, fun k hother => ?_⟩
  · rw [rawNeed_get, if_pos ⟨habove, hneeded⟩]
  · rw [rawNeed_get, if_neg (by omega)]

/-- Settles O32: each row by the colour it chooses; the `AA.*` rows at the worker's own column and
weights. -/
theorem blendRowsResult : Obligations.BlendRowsResult := by
  intro s w cur xf yf c0 c1 n0 n1 hw hc0 hc1 hn0 hn1
  have hmixed := blendResample_of_filled hc0 hc1 hn0 hn1 xf yf
  refine ⟨exec_lerp3 hw (lerp3_of_filled hc0 hc1 hn0 hn1 xf yf),
    exec_blend hw (blend_of_some hc0 hmixed), ?_⟩
  rintro rfl rfl rfl
  obtain ⟨halways, hextra, honly⟩ := exec_aaResamp hw hmixed
  exact ⟨halways, hextra, honly, exec_aaReplicate hw hc0⟩

end Sys2Proof.Proofs
end

section
/-! The proofs of the fast pipeline's statements (44_pipeline_fast.md): the geometry up to the four
tests of R320, the overflow test of R321, and the sample functions as numbers. -/

namespace Sys2Proof.Machine

/-! ## The prologue (R320) -/

/-- R320: the prologue is R244 of the state that R230 to R233 leave, since R232 always goes on. -/
theorem fastPrologue_eq (s : State) : fastPrologue s
    = resolveVactive (resolveTv (resolveCtrl (resolveExtent (takeSnapshot s))).state) := by
  obtain ⟨t, hgo, -⟩ := resolveCtrl_go (resolveExtent (takeSnapshot s))
  rw [fastPrologue, hgo, Flow.bind_go, Flow.state_go]

/-- R320: where R244 ends the update, `FAST.GEOM` is R244 alone. -/
theorem fastGeom_of_ended {s t : State} (h : fastPrologue s = .ended t) :
    fastGeom s = .ended t := by
  rw [fastGeom, h, Flow.bind_ended]

/-- R320: where R244 goes on, the native resolution is computed and tested. -/
theorem fastGeom_of_go {s t : State} (h : fastPrologue s = .go t) :
    fastGeom s = fastTests (fastExtent t) := by
  rw [fastGeom, h, Flow.bind_go]

/-- R244: outside 1 to 625 active lines the update ends. -/
theorem resolveVactive_ended {s : State}
    (h : 625 < (s.geom.vSync : Int) - vOffset s.geom ∨ (s.geom.vSync : Int) - vOffset s.geom ≤ 0) :
    ∃ t, resolveVactive s = .ended t := by
  rcases h with hbig | hnonpos
  · exact ⟨_, resolveVactive_of_tooBig hbig⟩
  · exact ⟨_, resolveVactive_of_nonpos hnonpos⟩

/-! ## The four tests and the fit (R320, R321) -/

section TestsAndFit

variable {s : State}

theorem fastTests_of_empty (hempty : s.geom.hresRaw ≤ 0 ∨ s.geom.vresRaw ≤ 0) :
    fastTests s = .ended (skipFrame .emptyWindow s) := if_pos hempty

theorem fastTests_of_odd (hempty : ¬(s.geom.hresRaw ≤ 0 ∨ s.geom.vresRaw ≤ 0))
    (hodd : s.ctrl.serrate = true ∧ s.geom.parity = true) :
    fastTests s = .ended (skipFrame .oddField s) := (if_neg hempty).trans (if_pos hodd)

theorem fastTests_of_blank (hempty : ¬(s.geom.hresRaw ≤ 0 ∨ s.geom.vresRaw ≤ 0))
    (hodd : ¬(s.ctrl.serrate = true ∧ s.geom.parity = true))
    (hblank : s.cfgCopy.intent = .colorFast ∧ s.geom.hasData = false) :
    fastTests s = .ended (skipFrame .blank s) :=
  (if_neg hempty).trans ((if_neg hodd).trans (if_pos hblank))

theorem fastTests_of_nullOrigin (hempty : ¬(s.geom.hresRaw ≤ 0 ∨ s.geom.vresRaw ≤ 0))
    (hodd : ¬(s.ctrl.serrate = true ∧ s.geom.parity = true))
    (hblank : ¬(s.cfgCopy.intent = .colorFast ∧ s.geom.hasData = false))
    (hnull : s.geom.origin = 0) :
    fastTests s = .ended (skipFrame .nullOrigin s) :=
  (if_neg hempty).trans ((if_neg hodd).trans ((if_neg hblank).trans (if_pos hnull)))

/-- R320, log 11: a frame that passes the tests issues `FAST.FIT`. -/
theorem fastTests_of_passes (hempty : ¬(s.geom.hresRaw ≤ 0 ∨ s.geom.vresRaw ≤ 0))
    (hodd : ¬(s.ctrl.serrate = true ∧ s.geom.parity = true))
    (hblank : ¬(s.cfgCopy.intent = .colorFast ∧ s.geom.hasData = false))
    (hnull : s.geom.origin ≠ 0) :
    fastTests s = .go (s.withSeq (.op .fastFit :: s.seq)) :=
  (if_neg hempty).trans ((if_neg hodd).trans ((if_neg hblank).trans (if_neg hnull)))

/-- R321: the buffer holds 400000 words. -/
theorem fastFit_of_tooLarge (h : 400000 < s.geom.hresRaw * s.geom.vresRaw) :
    fastFit s = .ended (raiseFatal .fastOverflow (s.geom.hresRaw * s.geom.vresRaw) s) := if_pos h

theorem fastFit_of_fits (h : s.geom.hresRaw * s.geom.vresRaw ≤ 400000) : fastFit s = .go s :=
  if_neg (Int.not_lt.2 h)

end TestsAndFit

theorem exec_fastGeom (s : State) : exec .fastGeom s = .next (fastGeom s).state := rfl

theorem exec_fastFit (s : State) : exec .fastFit s = .next (fastFit s).state := rfl

/-! ## The samples (R323 to R326) -/

/-- R323: the colour of the 16-bit pixel, as a number. -/
theorem fastColor16_eq (s : State) (off : Int) :
    let p := memRead16 s (memIndex (base16 s.geom.origin) off)
    fastColor16 s off = ⟨BitVec.ofNat 8 (8 * (p.toNat / 2048)),
      BitVec.ofNat 8 (8 * (p.toNat / 64 % 32)), BitVec.ofNat 8 (8 * (p.toNat / 2 % 32))⟩ :=
  rgb16_eq _

/-- R324: the colour of the 32-bit pixel, as a number. -/
theorem fastColor32_eq (s : State) (off : Int) :
    let d := memRead32 s (memIndex (base32 s.geom.origin) off)
    fastColor32 s off = ⟨BitVec.ofNat 8 (d.toNat / 2 ^ 24), BitVec.ofNat 8 (d.toNat / 2 ^ 16),
      BitVec.ofNat 8 (d.toNat / 2 ^ 8)⟩ :=
  rgb32_eq _

/-- R325: the high byte of the depth sample is its quotient by 256. -/
theorem fastDepth_eq (s : State) (off : Int) :
    let z := BitVec.ofNat 8 ((memRead16 s (memIndex (base16 s.zbOrigin) off)).toNat / 256)
    fastDepth s off = ⟨z, z, z⟩ := by
  simp only [fastDepth, extractLsb'_eq_ofNat]
  rfl

/-- R326: a coverage in the top three bits of a byte is 32 times the coverage. -/
theorem cvg16_append_zeros (pix : Half) (aux : Byte) :
    cvg16 pix aux ++ 0#5 = BitVec.ofNat 8 (32 * (4 * (pix.toNat % 2) + aux.toNat % 4)) := by
  apply BitVec.eq_of_toNat_eq
  rw [toNat_append_add, cvg16_toNat, BitVec.toNat_ofNat, BitVec.toNat_ofNat]
  omega

theorem fastCvg_eq (s : State) (off : Int) :
    let i := memIndex (base16 s.geom.origin) off
    let c := BitVec.ofNat 8 (32 * (4 * ((memRead16 s i).toNat % 2)
      + (memReadPair16 s i).2.toNat % 4))
    fastCvg s off = ⟨c, c, c⟩ := by
  simp only [fastCvg, cvg16_append_zeros]
  rfl

/-! ## The rows, for the worker in turn -/

section Rows

variable {s : State} {w : Worker}

theorem exec_fastColor16 (h : WorkerIs s w) :
    exec .fastColor16 s = .next (s.withWorker { w with rgb := fastColor16 s w.num }) :=
  onWorker_some h

theorem exec_fastColor32 (h : WorkerIs s w) :
    exec .fastColor32 s = .next (s.withWorker { w with rgb := fastColor32 s w.num }) :=
  onWorker_some h

theorem exec_fastDepth (h : WorkerIs s w) :
    exec .fastDepth s = .next (s.withWorker { w with rgb := fastDepth s w.num }) :=
  onWorker_some h

theorem exec_fastCvg (h : WorkerIs s w) :
    exec .fastCvg s = .next (s.withWorker { w with rgb := fastCvg s w.num }) :=
  onWorker_some h

end Rows

end Sys2Proof.Machine

namespace Sys2Proof.Proofs

open Sys2Proof.Machine

/-- Settles O36: R244 ends the update or hands the frame to the four tests, which are made in their
order of the state with the native resolution; and both outcomes of R321. -/
theorem fastGeometryAndFitResult : Obligations.FastGeometryAndFitResult := by
  refine ⟨fun s => ?_, fun s => ⟨fun hlarge => ?_, fun hfits => ?_⟩⟩
  · intro p v hr vr q empty odd blank
    have hprologue : fastPrologue s = resolveVactive p := fastPrologue_eq s
    refine ⟨fun hout => ?_, fun hlo hhi => ?_⟩
    · obtain ⟨t, hended⟩ := resolveVactive_ended (s := p) hout
      rw [exec_fastGeom, exec_resVactive, fastGeom_of_ended (hprologue.trans hended), hended]
    · have hgeom : fastGeom s = fastTests q :=
        fastGeom_of_go (hprologue.trans (resolveVactive_of_fits hlo hhi))
      rw [exec_fastGeom, hgeom]
      refine ⟨fun hempty => ?_, fun hempty hodd => ?_, fun hempty hodd hblank => ?_,
        fun hempty hodd hblank hnull => ?_, fun hempty hodd hblank hnull => ?_⟩
      · rw [fastTests_of_empty (s := q) hempty, Flow.state_ended]
      · rw [fastTests_of_odd (s := q) hempty hodd, Flow.state_ended]
      · rw [fastTests_of_blank (s := q) hempty hodd hblank, Flow.state_ended]
      · rw [fastTests_of_nullOrigin (s := q) hempty hodd hblank hnull, Flow.state_ended]
      · rw [fastTests_of_passes (s := q) hempty hodd hblank hnull, Flow.state_go]
  · rw [exec_fastFit, fastFit_of_tooLarge hlarge, Flow.state_ended]
  · rw [exec_fastFit, fastFit_of_fits hfits, Flow.state_go]

/-- Settles O37: each row leaves its sample, which is the pixel's bit fields read as numbers. -/
theorem fastSamplesResult : Obligations.FastSamplesResult := by
  intro s w hw
  rw [exec_fastColor16 hw, exec_fastColor32 hw, exec_fastDepth hw, exec_fastCvg hw,
    fastColor16_eq, fastColor32_eq, fastDepth_eq, fastCvg_eq]
  exact ⟨rfl, rfl, rfl, rfl⟩

end Sys2Proof.Proofs
end

section
/-! The proofs of the composition's statements (45_composition.md): the three rectangles, the rows a
displayed row shows, and the byte layout of the snapshot file. -/

namespace Sys2Proof.Machine

/-! ## The rectangles (R343 to R346) -/

section Rectangles

variable {s : State}

/-- R344: the shift by the serrate flag is a factor. -/
theorem bothFields_eq_mul (c : Ctrl) (v : Int) :
    bothFields c v = (if c.serrate then 2 else 1) * v := by
  cases hserrate : c.serrate <;> simp [bothFields, hserrate]

theorem exec_composeFull_of_empty (h : s.geom.vactive ≤ 0) :
    exec .composeFull s = .next (skipFrame .emptyCrop s) := if_pos h

theorem exec_composeFull_of_pos (hsync : 0 < s.geom.vSync) (h : 0 < s.geom.vactive) :
    exec .composeFull s = .next (s.withDesc (fullRect s.geom)) :=
  (if_neg (Int.not_le.mpr h)).trans (if_neg hsync.ne')

theorem exec_composeCrop_of_empty (h : s.geom.maxhpass - s.geom.minhpass ≤ 0) :
    exec .composeCrop s = .next (skipFrame .emptyCrop s) := if_pos h

theorem exec_composeCrop_of_pos (hsync : 0 < s.geom.vSync)
    (h : 0 < s.geom.maxhpass - s.geom.minhpass) :
    exec .composeCrop s = .next (s.withDesc (cropRect s.ctrl s.geom)) :=
  (if_neg (Int.not_le.mpr h)).trans (if_neg hsync.ne')

theorem exec_composeFast_of_pos (hsync : 0 < s.geom.vSync) (h : s.geom.hres ≠ 0) :
    exec .composeFast s = .next (s.withDesc (fastRect s.geom)) :=
  if_neg (not_or.mpr ⟨hsync.ne', h⟩)

theorem exec_widescreen (s : State) :
    exec .widescreen s = .next (s.withDesc (widenDesc s.desc)) := rfl

end Rectangles

/-! ## The row map (R349) -/

/-- R349: the row itself where the two heights are equal, else the floor of its proportional
position. -/
theorem rowMap_eq {d : Desc} (hheight : 0 ≤ d.height) (htarget : 0 ≤ d.targetHeight) (t : Nat) :
    rowMap d t = if d.height = d.targetHeight then t
      else t * d.height.toNat / d.targetHeight.toNat := by
  have hfloor : (t * d.height / d.targetHeight).toNat
      = t * d.height.toNat / d.targetHeight.toNat := by
    obtain ⟨n, hn⟩ := Int.eq_ofNat_of_zero_le hheight
    obtain ⟨m, hm⟩ := Int.eq_ofNat_of_zero_le htarget
    rw [hn, hm, ← Int.natCast_mul, ← Int.natCast_ediv]
    rfl
  rw [rowMap, hfloor]

/-- R349: a displayed row shows a row of the picture. -/
theorem rowMap_le {d : Desc} (hheight : 0 < d.height) {t : Nat}
    (ht : (t : Int) < d.targetHeight) : (rowMap d t : Int) ≤ d.height - 1 := by
  rw [rowMap_eq (by omega) (by omega)]
  split
  case isTrue heq => omega
  case isFalse =>
    have hlt : t * d.height.toNat / d.targetHeight.toNat < d.height.toNat :=
      Nat.div_lt_of_lt_mul (Nat.mul_lt_mul_of_pos_right (by omega) (by omega))
    omega

/-! ## Blocks of one length -/

section Blocks

variable {α β : Type} {f : α → List β} {n : Nat}

theorem length_flatMap_of_blocks {l : List α} (h : ∀ a ∈ l, (f a).length = n) :
    (l.flatMap f).length = l.length * n := by
  rw [List.length_flatMap, List.map_congr_left h, List.map_const', List.sum_replicate,
    smul_eq_mul]

/-- Where the blocks have one length, the place of an element is that of its block and its own
place there. -/
theorem getElem?_flatMap_of_blocks {l : List α} (h : ∀ a ∈ l, (f a).length = n) {i j : Nat}
    {a : α} (ha : l[i]? = some a) (hj : j < n) : (l.flatMap f)[i * n + j]? = (f a)[j]? := by
  induction l generalizing i with
  | nil => simp at ha
  | cons b l ih =>
    obtain ⟨hb, hl⟩ := List.forall_mem_cons.mp h
    rw [List.flatMap_cons]
    cases i with
    | zero =>
      obtain rfl : b = a := by simpa using ha
      rw [List.getElem?_append_left (by omega), Nat.zero_mul, Nat.zero_add]
    | succ i =>
      have hplace : (i + 1) * n + j - (f b).length = i * n + j := by
        rw [hb, Nat.succ_mul]
        omega
      rw [List.getElem?_append_right (by rw [hb, Nat.succ_mul]; omega), hplace]
      exact ih hl (by simpa using ha)

end Blocks

/-! ## Little-endian fields (R354) -/

theorem le32_length (v : Nat) : (le32 v).length = 4 := rfl

theorem le16_getElem? (v : Nat) {j : Nat} (hj : j < 2) :
    (le16 v)[j]? = some (BitVec.ofNat 8 (v / 256 ^ j)) := by
  interval_cases j <;> simp [le16]

theorem le32_getElem? (v : Nat) {j : Nat} (hj : j < 4) :
    (le32 v)[j]? = some (BitVec.ofNat 8 (v / 256 ^ j)) := by
  interval_cases j <;> simp [le32, le16, Nat.div_div_eq_div_mul]

/-- R354: a pixel's four bytes are blue, green, red and the high byte. -/
theorem le32_toNat (v : Word) : le32 v.toNat =
    [v.extractLsb' 0 8, v.extractLsb' 8 8, v.extractLsb' 16 8, v.extractLsb' 24 8] := by
  simp only [extractLsb'_byte, le32, le16, Nat.div_div_eq_div_mul, Nat.pow_zero, Nat.div_one]
  rfl

/-- A run of bytes at an offset, byte for byte. -/
theorem getElem?_of_take_drop {b bytes : List Byte} {off n j : Nat}
    (h : (b.drop off).take n = bytes) (hj : j < n) : b[off + j]? = bytes[j]? := by
  rw [← h, List.getElem?_take_of_lt hj, List.getElem?_drop]

/-! ## The headers (R354) -/

theorem bmpHeader_length (wd ht : Nat) : (bmpHeader wd ht).length = 54 := rfl

/-- R354: the 4-byte fields of the headers by their offsets. -/
def bmpWords (wd ht : Nat) : List (Nat × Nat) :=
  [(2, 54 + wd * ht * 4), (10, 54), (14, 40), (18, wd), (22, ht), (30, 0), (34, wd * ht * 4),
    (38, 0), (42, 0), (46, 0), (50, 0)]

/-- R354: the 2-byte fields of the headers by their offsets. -/
def bmpHalves : List (Nat × Nat) := [(6, 0), (8, 0), (26, 1), (28, 32)]

theorem bmpHeader_word (wd ht : Nat) (rest : List Byte) : ∀ f ∈ bmpWords wd ht,
    ((bmpHeader wd ht ++ rest).drop f.1).take 4 = le32 f.2 := by
  simp only [bmpWords, List.forall_mem_cons]
  exact ⟨rfl, rfl, rfl, rfl, rfl, rfl, rfl, rfl, rfl, rfl, rfl, List.forall_mem_nil _⟩

theorem bmpHeader_half (wd ht : Nat) (rest : List Byte) : ∀ f ∈ bmpHalves,
    ((bmpHeader wd ht ++ rest).drop f.1).take 2 = le16 f.2 := by
  simp only [bmpHalves, List.forall_mem_cons]
  exact ⟨rfl, rfl, rfl, rfl, List.forall_mem_nil _⟩

/-! ## The file (R354) -/

section File

variable (p : Prescale) (d : Desc)

/-- The displayed pixels in the file's order: the bottom row first, each row from the left. -/
def filePixels : List Word := (displayImage p d).reverse.flatMap id

theorem bmpBytes_eq : bmpBytes p d = bmpHeader d.width.toNat d.targetHeight.toNat
    ++ (filePixels p d).flatMap fun v => le32 v.toNat := by
  rw [bmpBytes, filePixels, List.flatMap_assoc]
  rfl

theorem displayImage_length : (displayImage p d).length = d.targetHeight.toNat := by
  simp [displayImage]

theorem length_of_mem_displayImage {row : List Word} (h : row ∈ (displayImage p d).reverse) :
    row.length = d.width.toNat := by
  simp only [displayImage, List.mem_reverse, List.mem_map] at h
  obtain ⟨t, -, rfl⟩ := h
  simp [srcRow]

theorem filePixels_length :
    (filePixels p d).length = d.targetHeight.toNat * d.width.toNat := by
  rw [filePixels, length_flatMap_of_blocks (f := id) fun _ => length_of_mem_displayImage p d,
    List.length_reverse, displayImage_length]

theorem bmpBytes_length :
    (bmpBytes p d).length = 54 + d.targetHeight.toNat * d.width.toNat * 4 := by
  rw [bmpBytes_eq, List.length_append, bmpHeader_length,
    length_flatMap_of_blocks fun v _ => le32_length v.toNat, filePixels_length]

/-- The `k`-th row of the file is the displayed row `k` from the bottom. -/
theorem displayImage_reverse_getElem? {k : Nat} (hk : k < d.targetHeight.toNat) :
    (displayImage p d).reverse[k]?
      = some (srcRow p d (rowMap d (d.targetHeight.toNat - 1 - k))) := by
  rw [List.getElem?_reverse (by rwa [displayImage_length]), displayImage_length, displayImage,
    List.getElem?_map, List.getElem?_range (by omega)]
  rfl

theorem filePixels_getElem? {k col : Nat} (hk : k < d.targetHeight.toNat)
    (hcol : col < d.width.toNat) : (filePixels p d)[k * d.width.toNat + col]?
      = some (srcPixel p d (rowMap d (d.targetHeight.toNat - 1 - k)) col) := by
  rw [filePixels, getElem?_flatMap_of_blocks (f := id) (fun _ => length_of_mem_displayImage p d)
    (displayImage_reverse_getElem? p d hk) hcol, id, srcRow, List.getElem?_map,
    List.getElem?_range hcol]
  rfl

/-- R354: a byte of a pixel stands after the headers, the pixels before it and its own before it. -/
theorem bmpBytes_pixel {i j : Nat} {v : Word} (hv : (filePixels p d)[i]? = some v) (hj : j < 4) :
    (bmpBytes p d)[54 + i * 4 + j]? = (le32 v.toNat)[j]? := by
  rw [bmpBytes_eq, Nat.add_assoc, ← bmpHeader_length d.width.toNat d.targetHeight.toNat,
    List.getElem?_append_right (Nat.le_add_right _ _), Nat.add_sub_cancel_left,
    getElem?_flatMap_of_blocks (fun v _ => le32_length v.toNat) hv hj]

theorem bmpBytes_word {f : Nat × Nat} (hf : f ∈ bmpWords d.width.toNat d.targetHeight.toNat)
    {j : Nat} (hj : j < 4) :
    (bmpBytes p d)[f.1 + j]? = some (BitVec.ofNat 8 (f.2 / 256 ^ j)) := by
  rw [bmpBytes_eq, getElem?_of_take_drop (bmpHeader_word _ _ _ f hf) hj, le32_getElem? _ hj]

theorem bmpBytes_half {f : Nat × Nat} (hf : f ∈ bmpHalves) {j : Nat} (hj : j < 2) :
    (bmpBytes p d)[f.1 + j]? = some (BitVec.ofNat 8 (f.2 / 256 ^ j)) := by
  rw [bmpBytes_eq, getElem?_of_take_drop (bmpHeader_half _ _ _ f hf) hj, le16_getElem? _ hj]

end File

theorem exec_bmp {s : State} (h : s.desc.inBuffer = true) :
    exec .bmp s = .next (s.withBmp (bmpBytes s.prescale s.desc)) := if_pos h

end Sys2Proof.Machine

namespace Sys2Proof.Proofs

open Sys2Proof.Machine

/-- Settles O40: each rectangle by the outcome of its test, and the widescreen target. -/
theorem rectanglesResult : Obligations.RectanglesResult := by
  intro s g n crop two
  refine ⟨exec_composeFull_of_pos, exec_composeFull_of_empty, fun hsync hcrop => ?_,
    exec_composeCrop_of_empty, exec_composeFast_of_pos, exec_widescreen s⟩
  rw [exec_composeCrop_of_pos hsync hcrop, cropRect, bothFields_eq_mul, bothFields_eq_mul]
  rfl

/-- Settles O42: the row map in closed form, and the file's headers and pixels by their places. -/
theorem bitmapResult : Obligations.BitmapResult := by
  intro s hin hheight hwidth htarget
  have hrow := rowMap_eq hheight.le htarget
  refine ⟨fun t ht => ⟨fun heq => ?_, fun hne => ?_, rowMap_le hheight ht⟩,
    bmpBytes s.prescale s.desc, exec_bmp hin, ?_, rfl,
    ⟨fun f hf j hj => bmpBytes_word _ _ hf hj, fun f hf j hj => bmpBytes_half _ _ hf hj⟩,
    fun k col hk hcol => ?_⟩
  · rw [hrow, if_pos heq]
  · rw [hrow, if_neg hne]
  · rw [bmpBytes_length]
    push_cast
    rw [Int.toNat_of_nonneg hwidth.le, Int.toNat_of_nonneg htarget, mul_comm s.desc.width]
  · intro t row v at4
    have hpixel : (filePixels s.prescale s.desc)[k * s.desc.width.toNat + col]? = some v := by
      rw [filePixels_getElem? _ _ (by omega) (by omega), hrow]
      rfl
    have hbytes := fun j => bmpBytes_pixel s.prescale s.desc hpixel (j := j)
    rw [le32_toNat] at hbytes
    exact ⟨hbytes 0 (by decide), hbytes 1 (by decide), hbytes 2 (by decide), hbytes 3 (by decide)⟩

end Sys2Proof.Proofs
end

section
/-! The proof of the statement on the exceptional ends of an update (60_exceptions.md): what raising a
fatal error writes, what a skip writes, and the codes of the fatal errors. -/

namespace Sys2Proof.Machine

/-- R381: the fatal error as writes of whole fields, the report appended to what `OUT` held. -/
theorem raiseFatal_eq (c : FatalCause) (info : Int) (s : State) :
    raiseFatal c info s = (((((s.withOut (s.out ++
      [.report .fatal (fatalCode c) (BitVec.ofInt 32 info)])).withFault
        ⟨true, fatalCode c, BitVec.ofInt 32 info⟩).withPhase .halted).withSeq []).withOutcome
          (some (.fault c))) := by
  rw [raiseFatal, emit]

/-- R388: the skip as writes of whole fields, neither `OUT` nor `FAULT` among them. -/
theorem skipFrame_eq (c : SkipCause) (s : State) :
    skipFrame c s = ((s.withPhase .idle).withSeq []).withOutcome (some (.skip c)) := rfl

end Sys2Proof.Machine

namespace Sys2Proof.Proofs

open Sys2Proof.Machine

/-- Settles O51: both ends of an update by their equations, the skip's frame by its fields, and the
codes by the table of R382, one cause at a time. -/
theorem fatalErrorAndSkipEffect : Obligations.FatalErrorAndSkipEffect := by
  refine ⟨⟨raiseFatal_eq, ?colorType, ?syncTooBig, ?illegalState, ?workerFailure,
    ?prescaleOverflow, ?fastOverflow⟩, fun c s => ⟨skipFrame_eq c s, skipFrame_out c s,
      skipFrame_fault c s, skipFrame_phase c s⟩⟩
  all_goals rfl

end Sys2Proof.Proofs
end

section
/-! The proof of the statement on RESET (70_reset_and_hazards.md): the state it leaves, the event that
makes a step a RESET, and that no other step leads out of `Halted`. -/

namespace Sys2Proof.Machine

/-! ## RESET (R430) -/

/-- The meaning of RESET. -/
theorem exec_reset (s : State) : exec .reset s = execReset s := rfl

/-- An empty prescale buffer holds 0 at every index (R42). -/
theorem prescaleGet_nil (i : Nat) : prescaleGet [] i = 0 := rfl

/-- The environment's event is the whole step: no agent of the block moves with it. -/
theorem step_of_reset {s : State} {rest : List EnvEvent} (h : s.env = .reset :: rest) :
    step s = exec .reset (s.withEnv rest) := by
  simp only [step, envStep, h]

/-! ## The steps of a halted block (R385) -/

/-- R390: the operation of every command word passes the host port. -/
theorem exec_of_decodeCmd {w : Word} {path : List Byte} {i : Instr} (h : decodeCmd w path = .ok i) :
    ∃ k, ∀ s, exec i s = hostPort s k := by
  simp only [decodeCmd] at h
  split_ifs at h
  all_goals
    obtain rfl := Except.ok.inj h
    exact ⟨_, fun _ => rfl⟩

/-- A halted block answers no action of the host: where its turn goes on, none was pending. -/
theorem hostStep_of_halted {s t : State} (hphase : s.phase = .halted) (h : hostStep s = .next t) :
    t = s := by
  rcases hostStep_next h with ⟨-, ht⟩ | ⟨w, path, r, i, -, hdecode, hexec⟩ |
    ⟨r, _, _, _, _, -, hidle, -⟩
  · exact ht
  · obtain ⟨k, hport⟩ := exec_of_decodeCmd hdecode
    rw [hport] at hexec
    obtain ⟨-, hidle, -⟩ := hostPort_next hexec
    rw [State.withHost_phase, hphase] at hidle
    cases hidle
  · rw [hphase] at hidle
    cases hidle

/-- Neither a round nor an issued operation runs in a halted block. -/
theorem machineStep_of_halted {s t : State} (hphase : s.phase = .halted)
    (h : machineStep s = .next t) : t = s := by
  rw [machineStep, if_pos hphase] at h
  exact hostStep_of_halted hphase h

/-- The failure of a worker passes a halted block by. -/
theorem workerFailure_of_halted {s : State} (hphase : s.phase = .halted) (wid : Nat) :
    workerFailure wid s = s :=
  if_neg fun hround => hround.1 hphase

/-- R385: a step of a halted block is a RESET, or it does no more than take an event off the
environment's list. -/
theorem step_of_halted {s t : State} (hphase : s.phase = .halted) (h : step s = .next t) :
    s.env.head? = some .reset ∨ ∃ r, t = s.withEnv r := by
  rcases step_next h with ⟨r, henv, -⟩ | ⟨wid, r, -, ht⟩ | ⟨r, -, hmove⟩
  · exact .inl (by rw [henv, List.head?_cons])
  · exact .inr ⟨r, ht.trans (workerFailure_of_halted (by rwa [State.withEnv_phase]) wid)⟩
  · exact .inr ⟨r, machineStep_of_halted (by rwa [State.withEnv_phase]) hmove⟩

end Sys2Proof.Machine

namespace Sys2Proof.Proofs

open Sys2Proof.Machine

/-- Settles O55: the fields of the state RESET answers one at a time, the event by its step, and the
way out of `Halted` by what a step of a halted block can be. -/
theorem resetResult : Obligations.ResetResult := by
  refine fun s => ⟨⟨_, exec_reset s, ?cfg, ?interlace, ?warned, ?lastIntent, ?snapreq, ?prescale,
    ?fault, ?disp, ?phase, ?out, ?workers, ?seq, ?regs, ?mem, ?aux, ?zbOrigin, ?noise⟩,
    fun _ => step_of_reset, fun t _ hphase hstep hout => ?onlyWayOut⟩
  case prescale => exact prescaleGet_nil
  case onlyWayOut =>
    refine (step_of_halted hphase hstep).resolve_right fun ⟨r, ht⟩ => hout ?_
    rw [ht, State.withEnv_phase, hphase]
  all_goals rfl

end Sys2Proof.Proofs
end

section
/-! The proofs of the encoding's statements (30_encoding.md): within a stage no two rows match one
mode word, the stages' rows by the fields of the mode word, and the fields of the command, the
configuration and the control word. -/

namespace Sys2Proof.Machine

/-! ## The operation map (R140, R141) -/

theorem hits_iff {r : ModeRow} {m : ModeWord} : r.hits m = true ↔ m &&& r.mask = r.value :=
  beq_iff_eq

/-- R141: two rows of one stage that agree on the bits that both fix are the same row. -/
theorem modeRows_exclusive : ∀ r ∈ modeRows, ∀ q ∈ modeRows, r.stage = q.stage →
    r.value &&& q.mask = q.value &&& r.mask → r = q := by decide

/-- R141: within a stage no two rows match one mode word. -/
theorem modeRow_unique {m : ModeWord} {r q : ModeRow} (hr : r ∈ modeRows) (hq : q ∈ modeRows)
    (hstage : r.stage = q.stage) (hrm : r.hits m = true) (hqm : q.hits m = true) : r = q := by
  rw [hits_iff] at hrm hqm
  refine modeRows_exclusive r hr q hq hstage ?_
  rw [← hrm, ← hqm, BitVec.and_assoc, BitVec.and_assoc, BitVec.and_comm r.mask]

/-- R141: a stage selects the one of its rows that matches. -/
theorem decodeMode_of_hits {m : ModeWord} {r : ModeRow} (hr : r ∈ modeRows)
    (hm : r.hits m = true) : decodeMode r.stage m = .ok r.instr := by
  unfold decodeMode
  split
  next q hfind =>
    have hq := List.find?_some hfind
    simp only [Bool.and_eq_true, beq_iff_eq] at hq
    rw [modeRow_unique (List.mem_of_find?_eq_some hfind) hr hq.1 hq.2 hm]
  next hnone =>
    have hmiss := List.find?_eq_none.mp hnone r hr
    simp [hm] at hmiss

/-- R140: a row's match lies within its mask. -/
theorem modeRows_value_masked : ∀ r ∈ modeRows, r.value &&& r.mask = r.value := by decide

/-- R141: a row matches its own match. -/
theorem decodeMode_value {r : ModeRow} (hr : r ∈ modeRows) :
    decodeMode r.stage r.value = .ok r.instr :=
  decodeMode_of_hits hr (hits_iff.mpr (modeRows_value_masked r hr))

/-- R141: an operation with a mode encoding has a row with that stage and match. -/
theorem exists_modeRow {i : Instr} {st : Stage} {v : ModeWord} (h : encode i = .mode st v) :
    ∃ r ∈ modeRows, r.stage = st ∧ r.value = v ∧ r.instr = i := by
  have hrows : Laws.TableRow.inMap i = Laws.TableRow.encoded i := by cases i <;> rfl
  have hmem : (st, v) ∈ Laws.TableRow.inMap i := by
    rw [hrows, Laws.TableRow.encoded, h]
    exact List.mem_singleton_self _
  simp only [Laws.TableRow.inMap, List.mem_map, List.mem_filter, beq_iff_eq,
    Prod.mk.injEq] at hmem
  obtain ⟨r, ⟨hr, hinstr⟩, hst, hv⟩ := hmem
  exact ⟨r, hr, hst, hv, hinstr⟩

/-! ## The fields of the mode word (R140) -/

/-- The mode word whose one field from bit `start` holds `v`. -/
def modeField (start : Nat) {len : Nat} (v : BitVec len) : ModeWord := v.setWidth 64 <<< start

/-- The mask of the field of `len` bits from bit `start`. -/
def modeMask (start len : Nat) : ModeWord := modeField start (BitVec.allOnes len)

/-- A field under its mask. -/
theorem and_modeMask (m : ModeWord) (start len : Nat) :
    m &&& modeMask start len = modeField start (m.extractLsb' start len) := by
  ext i hi
  simp only [modeMask, modeField, BitVec.getElem_and, BitVec.getElem_shiftLeft,
    BitVec.getElem_setWidth, BitVec.getLsbD_allOnes, BitVec.getLsbD_extractLsb']
  by_cases hlow : i < start
  · simp [hlow]
  · simp [hlow, BitVec.getLsbD_eq_getElem hi, Nat.add_sub_cancel' (not_lt.mp hlow), Bool.and_comm]

/-- A stage reads no more of the mode word than the bits its rows fix. -/
theorem decodeMode_and {st : Stage} {fixed : ModeWord} (m : ModeWord)
    (h : ∀ r ∈ modeRows, r.stage = st → fixed &&& r.mask = r.mask) :
    decodeMode st (m &&& fixed) = decodeMode st m := by
  have hrow : modeRows.find? (fun r => r.stage == st && r.hits (m &&& fixed))
      = modeRows.find? (fun r => r.stage == st && r.hits m) := by
    refine List.find?_congr fun r hr => ?_
    by_cases hst : r.stage = st
    · rw [ModeRow.hits, BitVec.and_assoc, h r hr hst, ModeRow.hits]
    · rw [beq_eq_false_iff_ne.mpr hst, Bool.false_and, Bool.false_and]
  rw [decodeMode, decodeMode, hrow]

section Fields

variable (cfg : Cfg) (control : Word)

/-- R140: below bit 32 the mode word is the control word. -/
theorem makeModeWord_low {start len : Nat} (h : start + len ≤ 32) :
    (makeModeWord cfg control).extractLsb' start len = control.extractLsb' start len :=
  BitVec.extractLsb'_append_eq_of_add_le h

theorem makeModeWord_high {start len : Nat} (h : 32 ≤ start) :
    (makeModeWord cfg control).extractLsb' start len
      = (encodeCfgw cfg).extractLsb' (start - 32) len :=
  BitVec.extractLsb'_append_eq_of_le h

end Fields

/-! ## The configuration word (R135) -/

theorem encodeCfgw_toNat (c : Cfg) : (encodeCfgw c).toNat = c.workersReq.toNat * 256
    + c.hideOverscan.toNat * 8 + c.widescreen.toNat * 4 + (encodeIntent c.intent).toNat := by
  rw [encodeCfgw]
  simp only [toNat_append_add, BitVec.toNat_ofBool, BitVec.toNat_ofNat]
  omega

/-- A bit of a word as a number. -/
theorem getLsbD_eq_of_toNat {n i : Nat} {w : BitVec n} {b : Bool}
    (h : w.toNat / 2 ^ i % 2 = b.toNat) : w.getLsbD i = b := by
  rw [BitVec.getLsbD, Nat.testBit_eq_decide_div_mod_eq, h]
  cases b <;> rfl

/-- A bit field as a number. -/
theorem extractLsb'_eq_of_toNat {n start len : Nat} {w : BitVec n} {v : BitVec len}
    (h : w.toNat / 2 ^ start % 2 ^ len = v.toNat) : w.extractLsb' start len = v :=
  BitVec.eq_of_toNat_eq ((toNat_extractLsb'_div w start len).trans h)

theorem decodeIntent_encodeIntent (i : Intent) : decodeIntent (encodeIntent i) = i := by
  cases i <;> rfl

section Cfgw

variable (c : Cfg)

theorem encodeCfgw_intent : (encodeCfgw c).extractLsb' 0 2 = encodeIntent c.intent := by
  have hintent := (encodeIntent c.intent).isLt
  refine extractLsb'_eq_of_toNat ?_
  rw [encodeCfgw_toNat]
  omega

theorem encodeCfgw_widescreen : (encodeCfgw c).getLsbD 2 = c.widescreen := by
  have hintent := (encodeIntent c.intent).isLt
  have hwide := c.widescreen.toNat_lt
  refine getLsbD_eq_of_toNat ?_
  rw [encodeCfgw_toNat]
  omega

theorem encodeCfgw_hideOverscan : (encodeCfgw c).getLsbD 3 = c.hideOverscan := by
  have hintent := (encodeIntent c.intent).isLt
  have hwide := c.widescreen.toNat_lt
  have hhide := c.hideOverscan.toNat_lt
  refine getLsbD_eq_of_toNat ?_
  rw [encodeCfgw_toNat]
  omega

theorem encodeCfgw_workersReq : (encodeCfgw c).extractLsb' 8 8 = c.workersReq := by
  have hintent := (encodeIntent c.intent).isLt
  have hwide := c.widescreen.toNat_lt
  have hhide := c.hideOverscan.toNat_lt
  have hworkers := c.workersReq.isLt
  refine extractLsb'_eq_of_toNat ?_
  rw [encodeCfgw_toNat]
  omega

end Cfgw

/-- R135: the configuration word loses no field. -/
theorem decodeCfgw_encodeCfgw (c : Cfg) : decodeCfgw (encodeCfgw c) = c := by
  rw [decodeCfgw, encodeCfgw_intent, encodeCfgw_widescreen, encodeCfgw_hideOverscan,
    encodeCfgw_workersReq, decodeIntent_encodeIntent]

/-- A field under a mask that covers it. -/
theorem extractLsb'_and_of_covered {n : Nat} {mask : BitVec n} {start len : Nat} (w : BitVec n)
    (h : mask.extractLsb' start len = BitVec.allOnes len) :
    (w &&& mask).extractLsb' start len = w.extractLsb' start len := by
  rw [BitVec.extractLsb'_and, h, BitVec.and_allOnes]

/-- A bit under a mask that covers it. -/
theorem getLsbD_and_of_covered {n : Nat} {mask : BitVec n} {i : Nat} (w : BitVec n)
    (h : mask.getLsbD i = true) : (w &&& mask).getLsbD i = w.getLsbD i := by
  rw [BitVec.getLsbD_and, h, Bool.and_true]

/-- R135: the configuration is decoded of its own bits alone. -/
theorem decodeCfgw_and (w : Word) : decodeCfgw (w &&& 0x0000FF0F#32) = decodeCfgw w := by
  rw [decodeCfgw, extractLsb'_and_of_covered w (by decide), getLsbD_and_of_covered w (by decide),
    getLsbD_and_of_covered w (by decide), extractLsb'_and_of_covered w (by decide), decodeCfgw]

/-! ## The control word (R122) -/

/-- The number of a colour type (R123). -/
def colorTypeBits : ColorType → BitVec 2
  | .blank => 0#2
  | .reserved => 1#2
  | .rgba16 => 2#2
  | .rgba32 => 3#2

/-- The number of an anti-aliasing mode (R123). -/
def aaModeBits : AaMode → BitVec 2
  | .resampExtraAlways => 0#2
  | .resampExtra => 1#2
  | .resampOnly => 2#2
  | .replicate => 3#2

theorem decodeColorType_bits (t : ColorType) : decodeColorType (colorTypeBits t) = t := by
  cases t <;> rfl

theorem decodeAaMode_bits (t : AaMode) : decodeAaMode (aaModeBits t) = t := by
  cases t <;> rfl

/-- R122: the control word by its fields, from bit 31 down. -/
theorem encodeCtrl_eq (c : Ctrl) : encodeCtrl c = 0#15 ++ BitVec.ofBool c.ditherFilter ++ 0#4
    ++ BitVec.ofBool c.killWe ++ 0#1 ++ aaModeBits c.aaMode ++ BitVec.ofBool c.testMode
    ++ BitVec.ofBool c.serrate ++ BitVec.ofBool c.vbusClock ++ BitVec.ofBool c.divot
    ++ BitVec.ofBool c.gamma ++ BitVec.ofBool c.gammaDither ++ colorTypeBits c.ctype := rfl

/-- R122: the control word as the sum of its fields. -/
theorem encodeCtrl_toNat (c : Ctrl) : (encodeCtrl c).toNat = (colorTypeBits c.ctype).toNat
    + c.gammaDither.toNat * 2 ^ 2 + c.gamma.toNat * 2 ^ 3 + c.divot.toNat * 2 ^ 4
    + c.vbusClock.toNat * 2 ^ 5 + c.serrate.toNat * 2 ^ 6 + c.testMode.toNat * 2 ^ 7
    + (aaModeBits c.aaMode).toNat * 2 ^ 8 + c.killWe.toNat * 2 ^ 11
    + c.ditherFilter.toNat * 2 ^ 16 := by
  rw [encodeCtrl_eq]
  simp only [toNat_append_add, BitVec.toNat_ofBool, BitVec.toNat_ofNat]
  omega

/-- R122: the control word loses no field. -/
theorem decodeCtrl_encodeCtrl (c : Ctrl) : decodeCtrl (encodeCtrl c) = c := by
  have hword := encodeCtrl_toNat c
  have htype := (colorTypeBits c.ctype).isLt
  have haa := (aaModeBits c.aaMode).isLt
  have hdither := c.gammaDither.toNat_lt
  have hgamma := c.gamma.toNat_lt
  have hdivot := c.divot.toNat_lt
  have hvbus := c.vbusClock.toNat_lt
  have hserrate := c.serrate.toNat_lt
  have htest := c.testMode.toNat_lt
  have hkill := c.killWe.toNat_lt
  have hfilter := c.ditherFilter.toNat_lt
  rw [decodeCtrl,
    extractLsb'_eq_of_toNat (start := 0) (v := colorTypeBits c.ctype) (by omega),
    extractLsb'_eq_of_toNat (start := 8) (v := aaModeBits c.aaMode) (by omega),
    decodeColorType_bits, decodeAaMode_bits,
    getLsbD_eq_of_toNat (i := 2) (b := c.gammaDither) (by omega),
    getLsbD_eq_of_toNat (i := 3) (b := c.gamma) (by omega),
    getLsbD_eq_of_toNat (i := 4) (b := c.divot) (by omega),
    getLsbD_eq_of_toNat (i := 5) (b := c.vbusClock) (by omega),
    getLsbD_eq_of_toNat (i := 6) (b := c.serrate) (by omega),
    getLsbD_eq_of_toNat (i := 7) (b := c.testMode) (by omega),
    getLsbD_eq_of_toNat (i := 11) (b := c.killWe) (by omega),
    getLsbD_eq_of_toNat (i := 16) (b := c.ditherFilter) (by omega)]

/-- R122: the control word is decoded of its own bits alone. -/
theorem decodeCtrl_and (w : Word) : decodeCtrl (w &&& 0x00010BFF#32) = decodeCtrl w := by
  simp only [decodeCtrl]
  congr 1
  case e_ctype => rw [extractLsb'_and_of_covered w (by decide)]
  case e_aaMode => rw [extractLsb'_and_of_covered w (by decide)]
  all_goals exact getLsbD_and_of_covered w (by decide)


/-! ## The stages by the fields (R141) -/

/-- R141: the row of the stage gamma by the flags of the control word. -/
def gammaRow : Bool → Bool → Instr
  | false, false => .gammaOff
  | false, true => .gammaDither
  | true, false => .gammaTable
  | true, true => .gammaTableDither

/-- R141: the row of the stage pipeline by the intent and the colour type. -/
def pipelineRow : Intent → ColorType → Except DecodeError Instr
  | .normal, _ => .ok .pipeFilt
  | .colorFast, .rgba16 => .ok .fastColor16
  | .colorFast, .rgba32 => .ok .fastColor32
  | .colorFast, .blank => .error (.noModeRow .pipeline)
  | .colorFast, .reserved => .error (.noModeRow .pipeline)
  | .depthFast, _ => .ok .fastDepth
  | .coverageFast, _ => .ok .fastCvg

/-- R141: the row of the stage fetch by the colour type. -/
def fetchRow : ColorType → Instr
  | .rgba16 => .fetch16
  | .rgba32 => .fetch32
  | .blank => .fetchBlank
  | .reserved => .fetchBlank

/-- R141: the row of the stage blend by the anti-aliasing mode. -/
def blendRow : AaMode → Instr
  | .resampExtraAlways => .aaResampExtraAlways
  | .resampExtra => .aaResampExtra
  | .resampOnly => .aaResampOnly
  | .replicate => .aaReplicate

section Stages

variable (cfg : Cfg) (control : Word)

/-- The intent as a field of the mode word. -/
theorem makeModeWord_intent :
    (makeModeWord cfg control).extractLsb' 32 2 = encodeIntent cfg.intent := by
  rw [makeModeWord_high cfg control (by decide), encodeCfgw_intent]

/-- A flag as a field of one bit. -/
theorem extractLsb'_one {n : Nat} (w : BitVec n) (i : Nat) :
    w.extractLsb' i 1 = BitVec.ofBool (w.getLsbD i) := by
  ext j hj
  obtain rfl : j = 0 := by omega
  simp

theorem decodeCtrl_ctype :
    (decodeCtrl control).ctype = decodeColorType (control.extractLsb' 0 2) := rfl

theorem decodeCtrl_aaMode :
    (decodeCtrl control).aaMode = decodeAaMode (control.extractLsb' 8 2) := rfl

theorem decodeCtrl_ditherFilter : (decodeCtrl control).ditherFilter = control.getLsbD 16 := rfl

theorem decodeCtrl_divot : (decodeCtrl control).divot = control.getLsbD 4 := rfl

theorem decodeCtrl_serrate : (decodeCtrl control).serrate = control.getLsbD 6 := rfl

theorem decodeMode_gamma : decodeMode .gamma (makeModeWord cfg control)
    = .ok (gammaRow (decodeCtrl control).gamma (decodeCtrl control).gammaDither) := by
  have hrows : ∀ g d : Bool,
      decodeMode .gamma (modeField 3 (BitVec.ofBool g) ||| modeField 2 (BitVec.ofBool d))
        = .ok (gammaRow g d) := by decide
  rw [← decodeMode_and (fixed := modeMask 3 1 ||| modeMask 2 1) _ (by decide),
    BitVec.and_or_distrib_left, and_modeMask, and_modeMask,
    makeModeWord_low _ _ (by decide), makeModeWord_low _ _ (by decide), extractLsb'_one,
    extractLsb'_one, hrows]
  rfl

/-- A stage that reads the intent and one field of the control word. -/
theorem decodeMode_intent_low {st : Stage} (start len : Nat) (hlen : start + len ≤ 32)
    (h : ∀ r ∈ modeRows, r.stage = st →
      (modeMask 32 2 ||| modeMask start len) &&& r.mask = r.mask) :
    decodeMode st (makeModeWord cfg control) = decodeMode st
      (modeField 32 (encodeIntent cfg.intent)
        ||| modeField start (control.extractLsb' start len)) := by
  rw [← decodeMode_and _ h, BitVec.and_or_distrib_left, and_modeMask, and_modeMask,
    makeModeWord_intent, makeModeWord_low _ _ hlen]

theorem decodeMode_pipeline : decodeMode .pipeline (makeModeWord cfg control)
    = pipelineRow cfg.intent (decodeCtrl control).ctype := by
  rw [decodeMode_intent_low cfg control 0 2 (by decide) (by decide), decodeCtrl_ctype]
  generalize control.extractLsb' 0 2 = t
  revert t
  cases cfg.intent <;> decide

theorem decodeMode_fetch : decodeMode .fetch (makeModeWord cfg control)
    = if cfg.intent = .normal then .ok (fetchRow (decodeCtrl control).ctype)
      else .error (.noModeRow .fetch) := by
  rw [decodeMode_intent_low cfg control 0 2 (by decide) (by decide), decodeCtrl_ctype]
  generalize control.extractLsb' 0 2 = t
  revert t
  cases cfg.intent <;> decide

theorem decodeMode_blend : decodeMode .blend (makeModeWord cfg control)
    = if cfg.intent = .normal then .ok (blendRow (decodeCtrl control).aaMode)
      else .error (.noModeRow .blend) := by
  rw [decodeMode_intent_low cfg control 8 2 (by decide) (by decide), decodeCtrl_aaMode]
  generalize control.extractLsb' 8 2 = t
  revert t
  cases cfg.intent <;> decide

theorem decodeMode_restore : decodeMode .restore (makeModeWord cfg control)
    = if cfg.intent = .normal ∧ (decodeCtrl control).ditherFilter = true then .ok .restoreOn
      else .error (.noModeRow .restore) := by
  rw [decodeMode_intent_low cfg control 16 1 (by decide) (by decide), extractLsb'_one,
    decodeCtrl_ditherFilter]
  generalize control.getLsbD 16 = b
  revert b
  cases cfg.intent <;> decide

theorem decodeMode_divot : decodeMode .divot (makeModeWord cfg control)
    = if cfg.intent = .normal ∧ (decodeCtrl control).divot = true then .ok .divotOn
      else .error (.noModeRow .divot) := by
  rw [decodeMode_intent_low cfg control 4 1 (by decide) (by decide), extractLsb'_one,
    decodeCtrl_divot]
  generalize control.getLsbD 4 = b
  revert b
  cases cfg.intent <;> decide

/-- R141: bit 1 of the control word says that the type has data, bit 6 is the serrate flag. -/
theorem decodeMode_field : decodeMode .field (makeModeWord cfg control)
    = if cfg.intent = .normal ∧
        (hasData (decodeCtrl control).ctype && (decodeCtrl control).serrate) = true
      then .ok .fieldInterlaced else .error (.noModeRow .field) := by
  have hdata : control.getLsbD 1 = (control.extractLsb' 1 6).getLsbD 0 := by simp
  have hserrate : control.getLsbD 6 = (control.extractLsb' 1 6).getLsbD 5 := by simp
  rw [decodeMode_intent_low cfg control 1 6 (by decide) (by decide), hasData_decodeCtrl,
    decodeCtrl_serrate, hdata, hserrate]
  generalize control.extractLsb' 1 6 = t
  revert t
  cases cfg.intent <;> decide

theorem decodeMode_compose : decodeMode .compose (makeModeWord cfg control)
    = if cfg.intent = .normal then .ok (if cfg.hideOverscan then .composeCrop else .composeFull)
      else .error (.noModeRow .compose) := by
  rw [← decodeMode_and (fixed := modeMask 32 2 ||| modeMask 35 1) _ (by decide),
    BitVec.and_or_distrib_left, and_modeMask, and_modeMask, makeModeWord_intent,
    makeModeWord_high _ _ (by decide), extractLsb'_one, encodeCfgw_hideOverscan]
  cases cfg.intent <;> cases cfg.hideOverscan <;> rfl

theorem decodeMode_widescreen : decodeMode .widescreen (makeModeWord cfg control)
    = if cfg.widescreen then .ok .widescreen else .error (.noModeRow .widescreen) := by
  rw [← decodeMode_and (fixed := modeMask 34 1) _ (by decide), and_modeMask,
    makeModeWord_high _ _ (by decide), extractLsb'_one, encodeCfgw_widescreen]
  cases cfg.widescreen <;> rfl

end Stages

/-! ## Command words (R136) -/

@[simp] theorem cmdWord_op (arg : BitVec 24) (op : Byte) : (cmdWord arg op).extractLsb' 0 8 = op :=
  BitVec.extractLsb'_append_eq_right

theorem cmdWord_arg (arg : BitVec 24) (op : Byte) : (cmdWord arg op).extractLsb' 8 24 = arg :=
  BitVec.extractLsb'_append_eq_left

/-- R136: every command comes back from its word, `CFGWR` with its argument and `SNAPREQ` with its
path. -/
theorem decodeEncoding_cmd {i : Instr} {w : Word} {path : List Byte} (h : encode i = .cmd w path) :
    decodeEncoding (.cmd w path) = some i := by
  cases i <;> simp only [encode, reduceCtorEq, Encoding.cmd.injEq] at h
  all_goals
    obtain ⟨rfl, rfl⟩ := h
    simp [decodeEncoding, decodeCmd, cmdWord_arg, Except.toOption]

/-- R136: the code of a command word is its value below 256. -/
theorem op_eq_of_mod {w : Word} {k : Nat} (h : w.toNat % 256 = k) :
    w.extractLsb' 0 8 = BitVec.ofNat 8 k :=
  extractLsb'_eq_of_toNat (by rw [BitVec.toNat_ofNat]; omega)

/-- R142 (d): every other code is reserved. -/
theorem decodeCmd_reserved {w : Word} (path : List Byte)
    (h : w.toNat % 256 ∉ [0x01, 0x02, 0x03, 0x10, 0x11, 0x12]) :
    decodeCmd w path = .error (.reservedOp (BitVec.ofNat 8 w.toNat)) := by
  simp only [List.mem_cons, List.not_mem_nil, or_false, not_or] at h
  obtain ⟨h1, h2, h3, h10, h11, h12⟩ := h
  have hop : w.extractLsb' 0 8 = BitVec.ofNat 8 w.toNat := by
    rw [extractLsb'_eq_ofNat, pow_zero, Nat.div_one]
  have hne {k : Nat} (hk : w.toNat % 256 ≠ k % 256) :
      BitVec.ofNat 8 w.toNat ≠ BitVec.ofNat 8 k :=
    fun heq => hk (by simpa using congrArg BitVec.toNat heq)
  simp only [decodeCmd, hop]
  rw [if_neg (hne h1), if_neg (hne h2), if_neg (hne h3), if_neg (hne h10), if_neg (hne h11),
    if_neg (hne h12)]

end Sys2Proof.Machine

namespace Sys2Proof.Proofs

open Sys2Proof.Machine

/-- Settles O1: the decoders evaluated at the words of the tables. -/
theorem tableWordsDecode : Obligations.TableWordsDecode := by
  unfold Obligations.TableWordsDecode
  decide

/-- Settles O2: the commands by their words, the modes by the one row that matches. -/
theorem encodeDecodeRoundTrip : Obligations.EncodeDecodeRoundTrip := by
  refine ⟨fun i hi => ?_, fun i st v hv => ?_⟩
  · cases hcode : encode i with
    | cmd w path => exact decodeEncoding_cmd hcode
    | mode st v =>
      obtain ⟨r, hr, rfl, rfl, rfl⟩ := exists_modeRow hcode
      rw [decodeEncoding, decodeMode_value hr]
      rfl
    | seq => exact absurd hcode hi
  · obtain ⟨⟨_, mask, _, _⟩, hr, rfl, rfl, rfl⟩ := exists_modeRow hv
    exact ⟨mask, hr, fun m hm => decodeMode_of_hits hr (hits_iff.mpr hm)⟩

/-- Settles O3: each stage by the fields it reads, and its one matching row. -/
theorem modeRowsSelectByFields : Obligations.ModeRowsSelectByFields := by
  refine ⟨fun cfg control => ?_, fun m r q => modeRow_unique⟩
  refine ⟨decodeMode_gamma cfg control, fun hnormal => ⟨?_, ?_, ?_, ?_, ?_, ?_, ?_⟩,
    fun hfast => ⟨?_, ?_, ?_, ?_, ?_, ?_⟩, fun hcolor => ?_, fun hdepth => ?_, fun hcvg => ?_,
    decodeMode_widescreen cfg control⟩
  · rw [decodeMode_pipeline, hnormal, pipelineRow]
  · exact (decodeMode_fetch cfg control).trans (if_pos hnormal)
  · exact (decodeMode_blend cfg control).trans (if_pos hnormal)
  · rw [decodeMode_compose, if_pos hnormal]
  · simp only [decodeMode_restore, hnormal, true_and]
  · simp only [decodeMode_divot, hnormal, true_and]
  · simp only [decodeMode_field, hnormal, true_and]
  · rw [decodeMode_fetch, if_neg hfast]
  · rw [decodeMode_blend, if_neg hfast]
  · rw [decodeMode_restore, if_neg fun h => hfast h.1]
  · rw [decodeMode_divot, if_neg fun h => hfast h.1]
  · rw [decodeMode_field, if_neg fun h => hfast h.1]
  · rw [decodeMode_compose, if_neg hfast]
  · rw [decodeMode_pipeline, hcolor]
    cases (decodeCtrl control).ctype <;> rfl
  · rw [decodeMode_pipeline, hdepth, pipelineRow]
  · rw [decodeMode_pipeline, hcvg, pipelineRow]

/-- Settles O4: the code read as the word's value below 256. -/
theorem commandWordsDecode : Obligations.CommandWordsDecode := by
  refine fun w path => ⟨fun h => ?_, fun h => ?_, fun h => ?_, fun h => ?_, fun h => ?_,
    fun h => ?_, fun h s => ?_⟩
  case refine_4 =>
    have harg : w.extractLsb' 8 24 = BitVec.ofNat 24 (w.toNat / 256) := extractLsb'_eq_ofNat w 8 24
    rw [decodeCmd, op_eq_of_mod h, harg]
    rfl
  case refine_7 => rw [hostAction, decodeCmd_reserved path h]
  all_goals
    rw [decodeCmd, op_eq_of_mod h]
    rfl

/-- Settles O5: each field by its place in the word, and each decoder by the bits it reads. -/
theorem fieldWordsRoundTrip : Obligations.FieldWordsRoundTrip := by
  refine ⟨decodeCfgw_encodeCfgw, decodeCtrl_encodeCtrl, fun w v h => ?_, fun w v h => ?_⟩
  · rw [← decodeCfgw_and w, h, decodeCfgw_and v]
  · rw [← decodeCtrl_and w, h, decodeCtrl_and v]

end Sys2Proof.Proofs
end

section
/-! What an operation can write, said once for every operation: the records it leaves as they are,
what it can issue, and that `OUT`, the warnings and the authority only go forward. -/

namespace Sys2Proof.Machine

/-! ## The records and their frame -/

/-- The records of the state that operations write (10_state.md R33 to R60), and the number of
workers. The registers that are the model's own (logs 11 and 19) are none. -/
inductive Record where
  | cfg
  | phase
  | snap
  | cfgCopy
  | geom
  | interlace
  | warned
  | lastIntent
  | snapreq
  | prescale
  | fault
  | disp
  | pool
  | desc
  | out

/-- What an operation of the engine may issue. -/
def SeqOp.issuable (op : SeqOp) : Prop := op.wf = true ∧ op.noHalt = true

/-- What an operation of a worker may issue. -/
def SeqOp.workerIssuable (op : SeqOp) : Prop := op.wf = true ∧ op.isWorkers = true

/-- The ranges of 10_state.md R40 that the control invariant names. -/
def Geometry.InRange (g : Geometry) : Prop :=
  (0 ≤ g.xAdd ∧ g.xAdd ≤ 4095) ∧ (0 ≤ g.yAdd ∧ g.yAdd ≤ 4095) ∧ g.vSync ≤ 1023 ∧ g.width ≤ 4095

/-- `t` is `s` with no more than the records `W` written: the external state and the other records
stay, what is left to run was to be run before or may be issued, the geometry stays in its ranges,
and what only goes forward does. -/
structure Frame (W : List Record) (s t : State) : Prop where
  external : t.regs = s.regs ∧ t.mem = s.mem ∧ t.aux = s.aux ∧ t.zbOrigin = s.zbOrigin ∧
    t.memLimit = s.memLimit ∧ t.noise = s.noise
  cfg : .cfg ∉ W → t.cfg = s.cfg
  phase : .phase ∉ W → t.phase = s.phase
  snap : .snap ∉ W → t.snap = s.snap
  cfgCopy : .cfgCopy ∉ W → t.cfgCopy = s.cfgCopy
  geom : .geom ∉ W → t.geom = s.geom
  inRange : s.geom.InRange → t.geom.InRange
  interlace : .interlace ∉ W → t.interlace = s.interlace
  authority : s.interlace.authority ≠ .undetermined →
    t.interlace.authority = s.interlace.authority
  warned : .warned ∉ W → t.warned = s.warned
  vbus : s.warned.vbus = true → t.warned.vbus = true
  nolerp16 : s.warned.nolerp16 = true → t.warned.nolerp16 = true
  lastIntent : .lastIntent ∉ W → t.lastIntent = s.lastIntent
  snapreq : .snapreq ∉ W → t.snapreq = s.snapreq
  prescale : .prescale ∉ W → t.prescale = s.prescale
  fault : .fault ∉ W → t.fault = s.fault
  disp : .disp ∉ W → t.disp = s.disp
  pool : .pool ∉ W → t.workers.length = s.workers.length
  desc : .desc ∉ W → t.desc = s.desc
  out : .out ∉ W → t.out = s.out
  grows : ∃ l, t.out = s.out ++ l
  issued : ∀ op ∈ t.seq, op ∈ s.seq ∨ op.issuable
  workersIssued : ∀ v ∈ t.workers, ∀ op ∈ v.seq,
    (∃ w ∈ s.workers, op ∈ w.seq) ∨ op.workerIssuable

namespace Frame

variable {W : List Record} {s t : State}

theorem refl (W : List Record) (s : State) : Frame W s s where
  external := ⟨rfl, rfl, rfl, rfl, rfl, rfl⟩
  cfg _ := rfl
  phase _ := rfl
  snap _ := rfl
  cfgCopy _ := rfl
  geom _ := rfl
  inRange h := h
  interlace _ := rfl
  authority _ := rfl
  warned _ := rfl
  vbus h := h
  nolerp16 h := h
  lastIntent _ := rfl
  snapreq _ := rfl
  prescale _ := rfl
  fault _ := rfl
  disp _ := rfl
  pool _ := rfl
  desc _ := rfl
  out _ := rfl
  grows := ⟨[], (List.append_nil _).symm⟩
  issued _ h := .inl h
  workersIssued v hv _ h := .inl ⟨v, hv, h⟩

/-! ### One write more -/

section Writes

variable (h : Frame W s t)

include h

theorem withCfg (v : Cfg) (hW : .cfg ∈ W) : Frame W s (t.withCfg v) :=
  { h with cfg := fun hn => absurd hW hn }

theorem withPhase (v : Phase) (hW : .phase ∈ W) : Frame W s (t.withPhase v) :=
  { h with phase := fun hn => absurd hW hn }

theorem withSnap (v : Regs) (hW : .snap ∈ W) : Frame W s (t.withSnap v) :=
  { h with snap := fun hn => absurd hW hn }

theorem withCfgCopy (v : Cfg) (hW : .cfgCopy ∈ W) : Frame W s (t.withCfgCopy v) :=
  { h with cfgCopy := fun hn => absurd hW hn }

theorem withGeom (v : Geometry) (hW : .geom ∈ W) (hv : t.geom.InRange → v.InRange) :
    Frame W s (t.withGeom v) :=
  { h with geom := fun hn => absurd hW hn, inRange := hv ∘ h.inRange }

theorem withInterlace (v : Interlace) (hW : .interlace ∈ W)
    (hv : s.interlace.authority ≠ .undetermined → v.authority = s.interlace.authority) :
    Frame W s (t.withInterlace v) :=
  { h with interlace := fun hn => absurd hW hn, authority := hv }

theorem withWarned (v : Warned) (hW : .warned ∈ W) (hvbus : s.warned.vbus = true → v.vbus = true)
    (hnolerp : s.warned.nolerp16 = true → v.nolerp16 = true) : Frame W s (t.withWarned v) :=
  { h with warned := fun hn => absurd hW hn, vbus := hvbus, nolerp16 := hnolerp }

theorem withLastIntent (v : Intent) (hW : .lastIntent ∈ W) : Frame W s (t.withLastIntent v) :=
  { h with lastIntent := fun hn => absurd hW hn }

theorem withSnapreq (v : SnapReq) (hW : .snapreq ∈ W) : Frame W s (t.withSnapreq v) :=
  { h with snapreq := fun hn => absurd hW hn }

theorem withPrescale (v : Prescale) (hW : .prescale ∈ W) : Frame W s (t.withPrescale v) :=
  { h with prescale := fun hn => absurd hW hn }

theorem withFault (v : FaultReg) (hW : .fault ∈ W) : Frame W s (t.withFault v) :=
  { h with fault := fun hn => absurd hW hn }

theorem withDisp (v : Disp) (hW : .disp ∈ W) : Frame W s (t.withDisp v) :=
  { h with disp := fun hn => absurd hW hn }

theorem withDesc (v : Desc) (hW : .desc ∈ W) : Frame W s (t.withDesc v) :=
  { h with desc := fun hn => absurd hW hn }

theorem withBmp (v : List Byte) : Frame W s (t.withBmp v) := { h with }

theorem withRet (v : Option Nat) : Frame W s (t.withRet v) := { h with }

theorem withOutcome (v : Option UpdateOutcome) : Frame W s (t.withOutcome v) := { h with }

theorem withOut {v : List OutEvent} (l : List OutEvent) (hv : v = t.out ++ l) (hW : .out ∈ W) :
    Frame W s (t.withOut v) := by
  obtain ⟨l', hl'⟩ := h.grows
  exact { h with
    out := fun hn => absurd hW hn
    grows := ⟨l' ++ l, by rw [State.withOut_out, hv, hl', List.append_assoc]⟩ }

theorem issue (ops : List SeqOp) (hops : ∀ op ∈ ops, op.issuable) :
    Frame W s (Machine.issue ops t) :=
  { h with issued := fun op hop => (List.mem_append.mp hop).elim (.inr ∘ hops op) (h.issued op) }

/-- The operations to come are abandoned. -/
theorem withSeq_nil : Frame W s (t.withSeq []) :=
  { h with issued := fun _ hop => absurd hop List.not_mem_nil }

/-- The pool is constructed, of workers with nothing to run. -/
theorem withWorkers_idle (l : List Worker) (hW : .pool ∈ W) (hl : ∀ v ∈ l, v.seq = []) :
    Frame W s (t.withWorkers l) :=
  { h with
    pool := fun hn => absurd hW hn
    workersIssued := fun v hv op hop => by
      rw [hl v hv] at hop
      exact absurd hop List.not_mem_nil }

/-- The worker in turn is written. -/
theorem withWorker {w : Worker} (hw : t.workers[t.me]? = some w) (v : Worker)
    (hv : ∀ op ∈ v.seq, op ∈ w.seq ∨ op.workerIssuable) : Frame W s (t.withWorker v) :=
  { h with
    pool := fun hn => (withWorker_length t v).trans (h.pool hn)
    workersIssued := fun u hu op hop => by
      rcases List.mem_or_eq_of_mem_set hu with hu | rfl
      · exact h.workersIssued u hu op hop
      · exact (hv op hop).elim (h.workersIssued w (List.mem_of_getElem? hw) op) .inr }

/-! ### The shared operations -/

theorem emit (e : OutEvent) (hW : .out ∈ W) : Frame W s (Machine.emit e t) := h.withOut [e] rfl hW

theorem raiseFatal (c : FatalCause) (info : Int) (hfault : .fault ∈ W) (hphase : .phase ∈ W)
    (hout : .out ∈ W) : Frame W s (Machine.raiseFatal c info t) :=
  ((((h.emit _ hout).withFault _ hfault).withPhase _ hphase).withSeq_nil).withOutcome _

theorem skipFrame (c : SkipCause) (hphase : .phase ∈ W) :
    Frame W s (Machine.skipFrame c t) :=
  ((h.withPhase _ hphase).withSeq_nil).withOutcome _

end Writes

/-! ### In front of an operation

What is popped off a list to be run, and the registers that say whose step it is (logs 8, 10, 11).
-/

section Bookkeeping

variable (h : Frame W s t)

include h

theorem withEnv (v : List EnvEvent) : Frame W s (t.withEnv v) := { h with }

theorem withHost (v : List HostAction) : Frame W s (t.withHost v) := { h with }

theorem withTick (v : Nat) : Frame W s (t.withTick v) := { h with }

theorem withMe (v : Nat) : Frame W s (t.withMe v) := { h with }

theorem withSeq (v : List SeqOp) (hv : ∀ op ∈ v, op ∈ t.seq) : Frame W s (t.withSeq v) :=
  { h with issued := fun op hop => h.issued op (hv op hop) }

end Bookkeeping

theorem mono {V : List Record} (h : Frame W s t) (hV : ∀ r ∈ W, r ∈ V) : Frame V s t :=
  { h with
    cfg := fun hn => h.cfg (hn ∘ hV _)
    phase := fun hn => h.phase (hn ∘ hV _)
    snap := fun hn => h.snap (hn ∘ hV _)
    cfgCopy := fun hn => h.cfgCopy (hn ∘ hV _)
    geom := fun hn => h.geom (hn ∘ hV _)
    interlace := fun hn => h.interlace (hn ∘ hV _)
    warned := fun hn => h.warned (hn ∘ hV _)
    lastIntent := fun hn => h.lastIntent (hn ∘ hV _)
    snapreq := fun hn => h.snapreq (hn ∘ hV _)
    prescale := fun hn => h.prescale (hn ∘ hV _)
    fault := fun hn => h.fault (hn ∘ hV _)
    disp := fun hn => h.disp (hn ∘ hV _)
    pool := fun hn => h.pool (hn ∘ hV _)
    desc := fun hn => h.desc (hn ∘ hV _)
    out := fun hn => h.out (hn ∘ hV _) }

/-- What stands in front of an operation writes no record. -/
theorem trans {u : State} (h : Frame [] s u) (h' : Frame W u t) : Frame W s t where
  external := by
    obtain ⟨a, b, c, d, e, f⟩ := h.external
    obtain ⟨a', b', c', d', e', f'⟩ := h'.external
    exact ⟨a'.trans a, b'.trans b, c'.trans c, d'.trans d, e'.trans e, f'.trans f⟩
  cfg hn := (h'.cfg hn).trans (h.cfg List.not_mem_nil)
  phase hn := (h'.phase hn).trans (h.phase List.not_mem_nil)
  snap hn := (h'.snap hn).trans (h.snap List.not_mem_nil)
  cfgCopy hn := (h'.cfgCopy hn).trans (h.cfgCopy List.not_mem_nil)
  geom hn := (h'.geom hn).trans (h.geom List.not_mem_nil)
  inRange := h'.inRange ∘ h.inRange
  interlace hn := (h'.interlace hn).trans (h.interlace List.not_mem_nil)
  authority hs := by
    rw [← h.interlace List.not_mem_nil] at hs ⊢
    exact h'.authority hs
  warned hn := (h'.warned hn).trans (h.warned List.not_mem_nil)
  vbus hs := h'.vbus (h.vbus hs)
  nolerp16 hs := h'.nolerp16 (h.nolerp16 hs)
  lastIntent hn := (h'.lastIntent hn).trans (h.lastIntent List.not_mem_nil)
  snapreq hn := (h'.snapreq hn).trans (h.snapreq List.not_mem_nil)
  prescale hn := (h'.prescale hn).trans (h.prescale List.not_mem_nil)
  fault hn := (h'.fault hn).trans (h.fault List.not_mem_nil)
  disp hn := (h'.disp hn).trans (h.disp List.not_mem_nil)
  pool hn := (h'.pool hn).trans (h.pool List.not_mem_nil)
  desc hn := (h'.desc hn).trans (h.desc List.not_mem_nil)
  out hn := (h'.out hn).trans (h.out List.not_mem_nil)
  grows := by
    rw [← h.out List.not_mem_nil]
    exact h'.grows
  issued op hop := (h'.issued op hop).elim (h.issued op) .inr
  workersIssued v hv op hop :=
    (h'.workersIssued v hv op hop).elim (fun ⟨w, hw, hop⟩ => h.workersIssued w hw op hop) .inr

/-! ### The operations of a worker -/

/-- An operation of a worker that writes its registers and issues nothing. -/
theorem of_onWorker {f : Worker → Worker} (h : onWorker s (fun w => .next (s.withWorker (f w)))
    = .next t) (hf : ∀ w, (f w).seq = w.seq) : Frame W s t := by
  obtain ⟨w, hw, ht⟩ := onWorker_next h
  obtain rfl := Host.Outcome.next.inj ht
  exact (refl W s).withWorker hw _ fun op hop => .inl (hf w ▸ hop)

/-- An operation of a worker that issues operations of its task. -/
theorem of_onWorker_issue {f : Worker → Worker} {ops : List SeqOp}
    (h : onWorker s (fun w => .next (s.withWorker ((f w).issue ops))) = .next t)
    (hf : ∀ w, (f w).seq = w.seq) (hops : ∀ op ∈ ops, op.workerIssuable) : Frame W s t := by
  obtain ⟨w, hw, ht⟩ := onWorker_next h
  obtain rfl := Host.Outcome.next.inj ht
  exact (refl W s).withWorker hw _ fun op hop =>
    (List.mem_append.mp hop).elim (.inr ∘ hops op) fun hop => .inl (hf w ▸ hop)

/-- An operation of a worker that stops where a cache column is not filled. -/
theorem of_withFilled {f : Worker → Option Worker}
    (h : onWorker s (fun w => withFilled s (f w)) = .next t)
    (hf : ∀ w v, f w = some v → v.seq = w.seq) : Frame W s t := by
  obtain ⟨w, hw, ht⟩ := onWorker_next h
  cases hv : f w with
  | none => rw [hv] at ht; cases ht
  | some v =>
    rw [hv] at ht
    obtain rfl := Host.Outcome.next.inj ht
    exact (refl W s).withWorker hw _ fun op hop => .inl (hf w v hv ▸ hop)

/-- An operation that leaves a value in a register of the worker, where there is one. -/
theorem of_withFilled_map {c : Worker → Option CCVG} {f : Worker → CCVG → Worker}
    (h : onWorker s (fun w => withFilled s ((c w).map (f w))) = .next t)
    (hf : ∀ w v, (f w v).seq = w.seq) : Frame W s t :=
  of_withFilled h fun w _ hv => by
    obtain ⟨x, -, rfl⟩ := Option.map_eq_some_iff.mp hv
    exact hf w x

end Frame

/-! ## The operations and the records they write -/

/-- The records an operation can write, from the rules that give it its meaning; RESET writes them
all. -/
def writes : Instr → List Record
  | .cfgwr _ => [.cfg]
  | .update => [.cfgCopy, .phase]
  | .snapreq _ => [.snapreq]
  | .dispInit => [.disp, .pool]
  | .dispTeardown => [.disp]
  | .dispRun _ => [.disp, .fault, .phase, .out]
  | .resSnap => [.snap]
  | .resExtent | .resTv | .resHporch | .resHclamp0 | .resVporch | .resCanvas | .resBorder
  | .resPtr => [.geom]
  | .resCtrl => [.geom, .warned, .out]
  | .resField | .fieldInterlaced => [.geom, .interlace]
  | .resVactive => [.geom, .fault, .phase, .out]
  | .resSkip => [.phase]
  | .resFit | .fastFit => [.fault, .phase, .out]
  | .fastGeom => [.snap, .geom, .warned, .fault, .phase, .out]
  | .column _ _ | .write _ _ _ => [.prescale]
  | .modesw => [.lastIntent, .prescale]
  | .composeFull | .composeCrop => [.desc, .phase]
  | .composeFast | .widescreen => [.desc]
  | .sink | .present => [.out]
  | .snapshot => [.out, .snapreq]
  | .reset => [.cfg, .phase, .snap, .cfgCopy, .geom, .interlace, .warned, .lastIntent, .snapreq,
    .prescale, .fault, .disp, .pool, .desc, .out]
  | .dispWcount | .pipeFilt | .fastColor16 | .fastColor32 | .fastDepth | .fastCvg | .fetch16
  | .fetch32 | .fetchBlank | .aaResampExtraAlways | .aaResampExtra | .aaResampOnly | .aaReplicate
  | .restoreOn | .divotOn | .gammaOff | .gammaDither | .gammaTable | .gammaTableDither
  | .taskFilt _ | .scanline _ | .cacheNew | .rawNeed _ _ _ | .divNeed _ _ _ | .needs _ | .sel _ _
  | .blend _ _ _ | .lerp3 _ _ _ | .fetch _ | .aaFilter _ _ _ _ | .restoreFilter _ _ _
  | .divot _ _ _ | .lerp _ _ _ | .gamma _ _ _ | .taskFast _ | .bmp => []

/-! ## The frame of the host's commands and of the dispatcher -/

section Frames

variable {s t : State}

theorem updateSequence_issuable (i : Intent) : ∀ op ∈ updateSequence i, op.issuable := by
  have hall : (updateSequence i).all (fun op => op.wf && op.noHalt) = true := by
    cases i <;> decide
  simpa [SeqOp.issuable] using hall

theorem execUpdate_frame (h : execUpdate s = .next t) : Frame (writes .update) s t := by
  obtain ⟨-, -, h⟩ := hostPort_next h
  obtain rfl := Host.Outcome.next.inj h
  exact (((Frame.refl _ s).withCfgCopy _ (by simp [writes])).withPhase _
    (by simp [writes])).issue _ (updateSequence_issuable _)

theorem execDispInit_frame (h : execDispInit s = .next t) :
    Frame (writes .dispInit) s t := by
  obtain ⟨-, -, h⟩ := hostPort_next h
  split at h
  · obtain rfl := Host.Outcome.next.inj h
    exact ((Frame.refl _ s).withDisp _ (by simp [writes])).withWorkers_idle _
      (by simp [writes]) fun v hv => by rw [List.eq_of_mem_replicate hv]; rfl
  · cases h

theorem execDispTeardown_frame (h : execDispTeardown s = .next t) :
    Frame (writes .dispTeardown) s t := by
  obtain ⟨-, -, h⟩ := hostPort_next h
  have hstop := fun v => (Frame.refl (writes .dispTeardown) s).withDisp v
    (by simp [writes])
  split at h
  · obtain rfl := Host.Outcome.next.inj h
    exact (hstop _).issue _ (by simp [SeqOp.issuable, SeqOp.wf, SeqOp.noHalt])
  · split at h
    · obtain rfl := Host.Outcome.next.inj h
      exact hstop _
    · cases h

theorem execDispRun_frame {task : Task} (h : execDispRun task s = .next t) :
    Frame (writes (.dispRun task)) s t := by
  have hfatal := (Frame.refl (writes (.dispRun task)) s).raiseFatal .illegalState 0
    (by simp [writes]) (by simp [writes]) (by simp [writes])
  unfold execDispRun at h
  split at h
  case h_1 =>
    obtain rfl := Host.Outcome.next.inj h
    exact (Frame.refl _ s).withDisp _ (by simp [writes])
  case h_2 => cases h
  all_goals
    obtain rfl := Host.Outcome.next.inj h
    exact hfatal

theorem execDispWcount_frame (h : execDispWcount s = .next t) :
    Frame (writes .dispWcount) s t := by
  obtain ⟨-, -, h⟩ := hostPort_next h
  split at h
  · obtain rfl := Host.Outcome.next.inj h
    exact (Frame.refl _ s).withRet _
  · cases h

end Frames

/-! ## The frame of the resolver's steps -/

section Ranges

variable {g : Geometry}

/-- R231: the increments, the sync length and the stride are register fields of 12, 10 and 12
bits. -/
theorem extentOf_inRange (r : Regs) (g : Geometry) : (extentOf r g).InRange := by
  have hx := (r.xScale.extractLsb' 0 12).isLt
  have hy := (r.yScale.extractLsb' 0 12).isLt
  have hsync := (r.vSync.extractLsb' 0 10).isLt
  have hwidth := (r.width.extractLsb' 0 12).isLt
  simp only [Geometry.InRange, extentOf, fieldAdd, fieldVSync, fieldWidth]
  omega

theorem hclampOf_inRange (h : g.InRange) : (hclampOf g).InRange := by
  unfold hclampOf
  split <;> exact h

theorem vporchOf_inRange (h : g.InRange) : (vporchOf g).InRange := by
  rcases lt_or_ge (tdiv (g.vStart - vOffset g) 2) 0 with hneg | hnonneg
  · rw [vporchOf_of_neg hneg]
    exact h
  · rw [vporchOf_of_nonneg hnonneg]
    exact h

theorem canvas_inRange (h : g.InRange) : (canvasVOf (canvasHOf g)).InRange := by
  rw [canvasVOf_eq, canvasHOf_eq]
  exact h

end Ranges

/-- A warning is given where its condition holds, and once. -/
theorem warnOnceVbus_if (b : Bool) (s : State) : (if b then warnOnceVbus s else s)
    = (s.withWarned { s.warned with vbus := s.warned.vbus || b }).withOut
        (s.out ++ if b && !s.warned.vbus then [.report .warning 0x21 0] else []) := by
  cases b
  case false =>
    rw [if_neg Bool.false_ne_true, Bool.or_false, Bool.false_and, if_neg Bool.false_ne_true,
      List.append_nil]
    rfl
  case true =>
    rw [if_pos rfl, warnOnceVbus_eq]
    cases s.warned.vbus <;> rfl

theorem warnOnceNolerp16_if (b : Bool) (s : State) : (if b then warnOnceNolerp16 s else s)
    = (s.withWarned { s.warned with nolerp16 := s.warned.nolerp16 || b }).withOut
        (s.out ++ if b && !s.warned.nolerp16 then [.report .warning 0x22 0] else []) := by
  cases b
  case false =>
    rw [if_neg Bool.false_ne_true, Bool.or_false, Bool.false_and, if_neg Bool.false_ne_true,
      List.append_nil]
    rfl
  case true =>
    rw [if_pos rfl, warnOnceNolerp16_eq]
    cases s.warned.nolerp16 <;> rfl

/-- R232, R392 to R394: the two warnings, each reported only once. -/
theorem resolveCtrl_eq (s : State) :
    let glitch := nolerp16 s.ctrl s.geom.hStart s.geom.xAdd
    resolveCtrl s = .go (((s.withGeom { s.geom with hasData := hasData s.ctrl.ctype }).withWarned
        ⟨s.warned.vbus || s.ctrl.vbusClock, s.warned.nolerp16 || glitch⟩).withOut (s.out
      ++ (if s.ctrl.vbusClock && !s.warned.vbus then [.report .warning 0x21 0] else [])
      ++ (if glitch && !s.warned.nolerp16 then [.report .warning 0x22 0] else []))) := by
  intro glitch
  rw [resolveCtrl, if_pos (recognised_true _)]
  simp only [warnOnceVbus_if, warnOnceNolerp16_if]
  rfl

namespace Frame

section Flows

variable {W : List Record} {s t : State} (h : Frame W s t)

include h

theorem resolveCtrl (hgeom : .geom ∈ W) (hwarned : .warned ∈ W) (hout : .out ∈ W) :
    Frame W s (Machine.resolveCtrl t).state := by
  rw [resolveCtrl_eq, Flow.state_go]
  exact ((h.withGeom _ hgeom (by exact id)).withWarned _ hwarned
    (fun hs => by simp [h.vbus hs]) fun hs => by simp [h.nolerp16 hs]).withOut _
      (List.append_assoc _ _ _) hout

theorem resolveVactive (hgeom : .geom ∈ W) (hfault : .fault ∈ W) (hphase : .phase ∈ W)
    (hout : .out ∈ W) : Frame W s (Machine.resolveVactive t).state := by
  rcases resolveVactive_cases t with ⟨-, heq⟩ | ⟨-, heq⟩ | ⟨-, -, heq⟩
  · rw [heq]
    exact (h.withGeom _ hgeom (by exact id)).raiseFatal _ _ hfault hphase hout
  · rw [heq]
    exact (h.withGeom _ hgeom (by exact id)).skipFrame _ hphase
  · rw [heq]
    exact h.withGeom _ hgeom (by exact id)

theorem resolveSkip (hphase : .phase ∈ W) : Frame W s (Machine.resolveSkip t).state := by
  rcases resolveSkip_cases t with ⟨c, heq⟩ | ⟨-, -, -, -, heq⟩
  · rw [heq]
    exact h.skipFrame c hphase
  · rwa [heq]

theorem resolveFit (hfault : .fault ∈ W) (hphase : .phase ∈ W) (hout : .out ∈ W) :
    Frame W s (Machine.resolveFit t).state := by
  rcases resolveFit_cases t with heq | ⟨-, heq⟩
  · rw [heq]
    exact h.raiseFatal _ _ hfault hphase hout
  · rwa [heq]

theorem fastTests (hphase : .phase ∈ W) : Frame W s (Machine.fastTests t).state := by
  unfold Machine.fastTests
  split_ifs
  · exact h.skipFrame _ hphase
  · exact h.skipFrame _ hphase
  · exact h.skipFrame _ hphase
  · exact h.skipFrame _ hphase
  · exact h.issue _ (by simp [SeqOp.issuable, SeqOp.wf, SeqOp.noHalt, Instr.wf])

theorem fastFit (hfault : .fault ∈ W) (hphase : .phase ∈ W) (hout : .out ∈ W) :
    Frame W s (Machine.fastFit t).state := by
  unfold Machine.fastFit
  split
  · exact h.raiseFatal _ _ hfault hphase hout
  · exact h

end Flows

/-- R320: the prologue up to R233 writes the snapshot, the geometry and the warnings. -/
theorem fastPrologue (s : State) : ∃ p, Frame [.snap, .geom, .warned, .out] s p ∧
    Machine.fastPrologue s = Machine.resolveVactive p := by
  have hctrl : Frame [.snap, .geom, .warned, .out] s
      (Machine.resolveCtrl (resolveExtent (takeSnapshot s))).state :=
    (((refl _ s).withSnap s.regs (by simp)).withGeom (extentOf s.regs s.geom) (by simp)
      fun _ => extentOf_inRange _ _).resolveCtrl (by simp) (by simp) (by simp)
  exact ⟨_, hctrl.withGeom _ (by simp) (by exact id), fastPrologue_eq s⟩

/-- R320: the prologue's steps, then either the end of the update or the tests. -/
theorem fastGeom (s : State) : Frame (writes .fastGeom) s (Machine.fastGeom s).state := by
  obtain ⟨p, hp, heq⟩ := fastPrologue s
  have hgeom : .geom ∈ writes .fastGeom := by simp [writes]
  have hphase : .phase ∈ writes .fastGeom := by simp [writes]
  have hprologue : Frame (writes .fastGeom) s (Machine.fastPrologue s).state := by
    rw [heq]
    exact (hp.mono (by simp [writes])).resolveVactive hgeom (by simp [writes]) hphase
      (by simp [writes])
  cases hend : Machine.fastPrologue s with
  | ended u =>
    rw [fastGeom_of_ended hend]
    rwa [hend] at hprologue
  | go u =>
    rw [fastGeom_of_go hend]
    rw [hend] at hprologue
    exact (hprologue.withGeom _ hgeom (by exact id)).fastTests hphase

/-- R237: the authority is inferred only where there is none. -/
theorem fieldInterlaced (s : State) :
    Frame (writes .fieldInterlaced) s (Machine.fieldInterlaced s) :=
  ((refl _ s).withGeom _ (by simp [writes]) (by exact id)).withInterlace _ (by simp [writes])
    fun hdetermined => if_neg fun hnone => hdetermined hnone.2

theorem resolveField (s : State) :
    Frame (writes .resField) s (Machine.resolveField s) := by
  unfold Machine.resolveField
  split
  · exact fieldInterlaced s
  · exact ((refl _ s).withGeom _ (by simp [writes]) (by exact id)).withInterlace _
      (by simp [writes]) fun _ => rfl
  
end Frame

/-! ## The frame of the worker's operations -/

/-- R286: no register but the divot cache is written. -/
theorem divNeed_seq {drow rrow : SrcRow} {c : Int} {w v : Worker}
    (h : divNeed drow rrow c w = some v) : v.seq = w.seq := by
  obtain ⟨d, -, rfl⟩ := Option.map_eq_some_iff.mp h
  cases drow <;> rfl

theorem rawNeed_seq (row : SrcRow) (base c : Int) (s : State) (w : Worker) :
    (rawNeed row base c s w).seq = w.seq := by
  cases row <;> rfl

theorem needs_seq {cur : Int} {s : State} {w v : Worker} (h : needs cur s w = some v) :
    v.seq = w.seq := by
  unfold needs at h
  split at h
  · obtain ⟨w2, hcur, hnext⟩ := Option.bind_eq_some_iff.mp h
    rw [divNeed_seq hnext, divNeed_seq hcur, rawNeed_seq, rawNeed_seq]
  · obtain rfl := Option.some.inj h
    rw [rawNeed_seq, rawNeed_seq]

section Frames

variable {s t : State}

theorem execNeeds_frame {cur : Int} (h : execNeeds cur s = .next t) : Frame [] s t :=
  Frame.of_withFilled h fun _ _ => needs_seq

theorem execDivNeed_frame {d r : SrcRow} {c : Int} (h : execDivNeed d r c s = .next t) :
    Frame [] s t :=
  Frame.of_withFilled h fun _ _ => divNeed_seq

theorem execRawNeed_frame {row : SrcRow} {base c : Int} (h : execRawNeed row base c s = .next t) :
    Frame [] s t :=
  Frame.of_onWorker h (rawNeed_seq row base c s)

theorem execTaskFilt_frame {wid : Nat} (h : execTaskFilt wid s = .next t) : Frame [] s t :=
  Frame.of_onWorker_issue (f := id) h (fun _ => rfl) fun op hop => by
    obtain ⟨y, -, rfl⟩ := List.mem_map.mp hop
    exact ⟨rfl, rfl⟩

theorem execTaskFast_frame {wid : Nat} (h : execTaskFast wid s = .next t) : Frame [] s t :=
  Frame.of_onWorker_issue (f := id) h (fun _ => rfl) fun op hop => by
    obtain ⟨y, -, hop⟩ := List.mem_flatMap.mp hop
    obtain ⟨x, -, rfl⟩ := List.mem_map.mp hop
    exact ⟨rfl, rfl⟩

theorem execScanline_frame {y : Nat} (h : execScanline y s = .next t) : Frame [] s t :=
  Frame.of_onWorker_issue h (fun _ => rfl) fun op hop => by
    rcases List.mem_cons.mp hop with rfl | hop
    · exact ⟨rfl, rfl⟩
    · obtain ⟨x, -, rfl⟩ := List.mem_map.mp hop
      exact ⟨rfl, rfl⟩

theorem execColumn_frame {y x : Nat} (h : execColumn y x s = .next t) :
    Frame (writes (.column y x)) s t := by
  obtain ⟨w, hw, h⟩ := onWorker_next h
  obtain ⟨v, c, rfl, hv, -⟩ := columnPixel_next h
  exact ((Frame.refl _ s).withWorker hw v fun op hop => .inl (hv ▸ hop)).withPrescale _
    (by simp [writes])

theorem execWrite_frame {y x : Nat} {c : Word} (h : execWrite y x c s = .next t) :
    Frame (writes (.write y x c)) s t := by
  rcases writePrescale_cases (writeIndex s.geom y x) c s with ⟨-, -, heq⟩ | ⟨-, heq⟩
  · obtain rfl := Host.Outcome.next.inj (heq.symm.trans h)
    exact (Frame.refl _ s).withPrescale _ (by simp [writes])
  · cases heq.symm.trans h

/-- R322: the pass of the fast task is no operation of the table, and writes what `COLUMN` does. -/
theorem fastPixel_frame {y x : Nat} (h : fastPixel y x s = .next t) : Frame [.prescale] s t := by
  obtain ⟨w, v, rgb, hw, rfl, hv, -⟩ := fastPixel_next h
  exact ((Frame.refl _ s).withWorker hw v fun op hop => .inl (hv ▸ hop)).withPrescale _ (by simp)

/-! ## The frame of the composition's operations -/

theorem modeSwitch_frame (s : State) : Frame (writes .modesw) s (modeSwitch s) := by
  unfold modeSwitch
  split
  · exact Frame.refl _ s
  · exact ((Frame.refl _ s).withPrescale _ (by simp [writes])).withLastIntent _
      (by simp [writes])

theorem execComposeFull_frame (h : execComposeFull s = .next t) :
    Frame (writes .composeFull) s t := by
  unfold execComposeFull composeFull at h
  split_ifs at h
  · obtain rfl := Host.Outcome.next.inj h
    exact (Frame.refl _ s).skipFrame _ (by simp [writes])
  · obtain rfl := Host.Outcome.next.inj h
    exact (Frame.refl _ s).withDesc _ (by simp [writes])

theorem execComposeCrop_frame (h : execComposeCrop s = .next t) :
    Frame (writes .composeCrop) s t := by
  unfold execComposeCrop composeCrop at h
  split_ifs at h
  · obtain rfl := Host.Outcome.next.inj h
    exact (Frame.refl _ s).skipFrame _ (by simp [writes])
  · obtain rfl := Host.Outcome.next.inj h
    exact (Frame.refl _ s).withDesc _ (by simp [writes])

theorem execComposeFast_frame (h : execComposeFast s = .next t) :
    Frame (writes .composeFast) s t := by
  unfold execComposeFast composeFast at h
  split_ifs at h
  obtain rfl := Host.Outcome.next.inj h
  exact (Frame.refl _ s).withDesc _ (by simp [writes])

theorem execSink_frame (h : execSink s = .next t) : Frame (writes .sink) s t := by
  unfold execSink at h
  split_ifs at h
  obtain rfl := Host.Outcome.next.inj h
  exact (Frame.refl _ s).emit _ (by simp [writes])

theorem execBmp_frame (h : execBmp s = .next t) : Frame (writes .bmp) s t := by
  unfold execBmp at h
  split_ifs at h
  obtain rfl := Host.Outcome.next.inj h
  exact (Frame.refl _ s).withBmp _

theorem execSnapshot_frame (h : execSnapshot s = .next t) :
    Frame (writes .snapshot) s t := by
  have hemit := fun e => (Frame.refl (writes .snapshot) s).emit e (by simp [writes])
  unfold execSnapshot at h
  split_ifs at h
  all_goals
    obtain rfl := Host.Outcome.next.inj h
    exact (hemit _).withSnapreq _ (by simp [writes])

theorem execSnapreq_frame {path : List Byte} (h : execSnapreq path s = .next t) :
    Frame (writes (.snapreq path)) s t := by
  obtain ⟨-, -, h⟩ := hostPort_next h
  obtain rfl := Host.Outcome.next.inj h
  exact (Frame.refl _ s).withSnapreq _ (by simp [writes])

theorem execCfgwr_frame {arg : BitVec 24} (h : execCfgwr arg s = .next t) :
    Frame (writes (.cfgwr arg)) s t := by
  obtain ⟨-, -, h⟩ := hostPort_next h
  obtain rfl := Host.Outcome.next.inj h
  exact (Frame.refl _ s).withCfg _ (by simp [writes])

end Frames

/-! ## Every operation -/

/-- An operation writes no more than its records. -/
theorem exec_frame {i : Instr} {s t : State} (hi : i ≠ .reset) (h : exec i s = .next t) :
    Frame (writes i) s t := by
  have hs := Frame.refl (writes i) s
  cases i
  case reset => exact absurd rfl hi
  case dispInit => exact execDispInit_frame h
  case dispWcount => exact execDispWcount_frame h
  case dispTeardown => exact execDispTeardown_frame h
  case cfgwr => exact execCfgwr_frame h
  case update => exact execUpdate_frame h
  case snapreq => exact execSnapreq_frame h
  case dispRun => exact execDispRun_frame h
  case composeFull => exact execComposeFull_frame h
  case composeCrop => exact execComposeCrop_frame h
  case composeFast => exact execComposeFast_frame h
  case sink => exact execSink_frame h
  case snapshot => exact execSnapshot_frame h
  case bmp => exact execBmp_frame h
  case column => exact execColumn_frame h
  case write => exact execWrite_frame h
  case needs => exact execNeeds_frame h
  case divNeed => exact execDivNeed_frame h
  case rawNeed => exact execRawNeed_frame h
  case taskFilt => exact execTaskFilt_frame h
  case taskFast => exact execTaskFast_frame h
  case scanline => exact execScanline_frame h
  case sel | divotOn | blend | lerp3 | aaResampExtraAlways | aaResampExtra | aaResampOnly |
      aaReplicate =>
    exact Frame.of_withFilled_map h fun _ _ => rfl
  case fastColor16 | fastColor32 | fastDepth | fastCvg | fetch16 | fetch32 | fetchBlank | fetch |
      aaFilter | restoreFilter | restoreOn | divot | lerp | gamma | gammaOff | gammaDither |
      gammaTable | gammaTableDither | cacheNew =>
    exact Frame.of_onWorker h fun _ => rfl
  all_goals obtain rfl := Host.Outcome.next.inj h
  case pipeFilt => exact hs.issue _ (by simp [SeqOp.issuable, SeqOp.wf, SeqOp.noHalt, Instr.wf])
  case resSnap => exact hs.withSnap _ (by simp [writes])
  case resCtrl =>
    exact hs.resolveCtrl (by simp [writes]) (by simp [writes]) (by simp [writes])
  case resField => exact Frame.resolveField s
  case fieldInterlaced => exact Frame.fieldInterlaced s
  case resVactive =>
    exact hs.resolveVactive (by simp [writes]) (by simp [writes])
      (by simp [writes]) (by simp [writes])
  case resSkip => exact hs.resolveSkip (by simp [writes])
  case resFit =>
    exact hs.resolveFit (by simp [writes]) (by simp [writes]) (by simp [writes])
  case fastGeom => exact Frame.fastGeom s
  case fastFit =>
    exact hs.fastFit (by simp [writes]) (by simp [writes]) (by simp [writes])
  case modesw => exact modeSwitch_frame s
  case widescreen => exact hs.withDesc _ (by simp [writes])
  case present => exact hs.emit _ (by simp [writes])
  case resExtent => exact hs.withGeom _ (by simp [writes]) fun _ => extentOf_inRange _ _
  case resHclamp0 => exact hs.withGeom _ (by simp [writes]) hclampOf_inRange
  case resVporch => exact hs.withGeom _ (by simp [writes]) vporchOf_inRange
  case resCanvas => exact hs.withGeom _ (by simp [writes]) canvas_inRange
  case resTv | resHporch | resBorder | resPtr =>
    exact hs.withGeom _ (by simp [writes]) (by exact id)

end Sys2Proof.Machine
end

section
/-! What every step keeps: a step is a reset or one move, each move by the records it writes and by
what it does to the dispatcher; the two invariants, the life cycle, the output, the halted block. -/

namespace Sys2Proof.Machine

/-! ## One step -/

/-- The one move of a step from `s` that is no reset, on the state `u` that is prepared for it:
what was popped off a list to be run is gone from it, and the move's agent is chosen. -/
inductive Move (s u t : State) : Prop
  | stay (h : t = u)
  | failure (wid : Nat) (h : t = workerFailure wid u)
  | command (w : Word) (path : List Byte) (i : Instr) (hdecode : decodeCmd w path = .ok i)
      (h : exec i u = .next t)
  | hostWrite (rg : Regs) (m a : Memory) (z : BitVec 24) (hidle : u.phase = .idle)
      (h : t = (((u.withRegs rg).withMem m).withAux a).withZbOrigin z)
      (hm : m = u.mem ∨ (∃ i v, m = writeHalf u.mem i v) ∨ ∃ j v, m = writeWord u.mem j v)
      (ha : a = u.aux ∨ ∃ i v, a = sparseSet u.aux i v)
  | barrier (hrunning : u.disp.state = .running) (h : t = joinRound u)
  | start (w : Worker) (hw : u.workers[u.me]? = some w) (hrunning : u.disp.state = .running)
      (h : t = startWorker u w)
  | done (hrunning : u.disp.state = .running) (h : t = endWorker u)
  | engine (op : SeqOp) (hop : op ∈ s.seq) (hphase : u.phase ≠ .halted) (h : runOp op u = .next t)
  | worker (op : SeqOp) (w : Worker) (hw : w ∈ s.workers) (hop : op ∈ w.seq)
      (hphase : u.phase ≠ .halted) (hrunning : u.disp.state = .running) (h : runOp op u = .next t)

section Moves

variable {s t : State}

theorem hostStep_move (h : hostStep s = .next t) : ∃ u, Frame [] s u ∧ Move s u t := by
  have hs := Frame.refl [] s
  rcases hostStep_next h with ⟨-, rfl⟩ | ⟨w, path, r, i, -, hdecode, h⟩ |
    ⟨r, rg, m, a, z, -, hidle, rfl, hm, ha⟩
  · exact ⟨t, hs, .stay rfl⟩
  · exact ⟨_, hs.withHost r, .command w path i hdecode h⟩
  · exact ⟨_, hs.withHost r, .hostWrite rg m a z hidle rfl hm ha⟩

theorem workerStep_move {i : Nat} (hphase : s.phase ≠ .halted) (hrunning : s.disp.state = .running)
    (h : workerStep i s = .next t) : ∃ u, Frame [] s u ∧ Move s u t := by
  have hs := (Frame.refl [] s).withMe i
  obtain ⟨w, hw, ⟨-, rfl⟩ | ⟨-, -, rfl⟩ | ⟨-, op, r, hseq, h⟩⟩ := workerStep_next h
  · exact ⟨_, hs, .start w hw hrunning rfl⟩
  · exact ⟨_, hs, .done hrunning rfl⟩
  · refine ⟨_, hs.withWorker hw _ fun op' hop => .inl ?_,
      .worker op w (List.mem_of_getElem? hw) ?_ hphase hrunning h⟩
    · rw [hseq]
      exact List.mem_cons_of_mem _ hop
    · rw [hseq]
      exact List.mem_cons_self

/-- A move's agent is found in the lists that the choice in front of it leaves as they are. -/
theorem Move.of_source {s' u : State} (h : Move s' u t) (hseq : s'.seq = s.seq)
    (hworkers : s'.workers = s.workers) : Move s u t := by
  cases h with
  | stay h => exact .stay h
  | failure wid h => exact .failure wid h
  | command w path i hdecode h => exact .command w path i hdecode h
  | hostWrite rg m a z hidle h hm ha => exact .hostWrite rg m a z hidle h hm ha
  | barrier hrunning h => exact .barrier hrunning h
  | start w hw hrunning h => exact .start w hw hrunning h
  | done hrunning h => exact .done hrunning h
  | engine op hop hphase h => exact .engine op (hseq ▸ hop) hphase h
  | worker op w hw hop hphase hrunning h => exact .worker op w (hworkers ▸ hw) hop hphase hrunning h

theorem roundStep_move (hphase : s.phase ≠ .halted) (hrunning : s.disp.state = .running)
    (h : roundStep s = .next t) : ∃ u, Frame [] s u ∧ Move s u t := by
  rcases roundStep_next h with ⟨-, -, rfl⟩ | ⟨i, k, h⟩
  · exact ⟨s, Frame.refl [] s, .barrier hrunning rfl⟩
  · obtain ⟨u, hu, hmove⟩ := workerStep_move (s := s.withTick k) hphase hrunning h
    exact ⟨u, ((Frame.refl [] s).withTick k).trans hu, hmove.of_source rfl rfl⟩

theorem machineStep_move (h : machineStep s = .next t) : ∃ u, Frame [] s u ∧ Move s u t := by
  rcases machineStep_next h with ⟨-, h⟩ | ⟨hphase, hrunning, h⟩ | ⟨hphase, -, op, r, hseq, h⟩ |
    ⟨-, -, -, h⟩
  · exact hostStep_move h
  · exact roundStep_move hphase hrunning h
  · refine ⟨_, (Frame.refl [] s).withSeq r fun op' hop => ?_, .engine op ?_ hphase h⟩
    · rw [hseq]
      exact List.mem_cons_of_mem _ hop
    · rw [hseq]
      exact List.mem_cons_self
  · exact hostStep_move h

/-- A step is a reset, or one move after the bookkeeping in front of it. -/
theorem step_move (h : step s = .next t) :
    (∃ r, s.env = .reset :: r ∧ exec .reset (s.withEnv r) = .next t) ∨
    ∃ u, Frame [] s u ∧ Move s u t := by
  rcases step_next h with hreset | ⟨wid, r, -, rfl⟩ | ⟨r, -, h⟩
  · exact .inl hreset
  · exact .inr ⟨_, (Frame.refl [] s).withEnv r, .failure wid rfl⟩
  · obtain ⟨u, hu, hmove⟩ := machineStep_move h
    exact .inr ⟨u, ((Frame.refl [] s).withEnv r).trans hu, hmove.of_source rfl rfl⟩

end Moves

/-! ## An issued operation -/

/-- Everything an issued operation can be, for what a step keeps: an operation of the table, well
formed if what was issued is, a pass of the fast task, the engine's own moves, or nothing. -/
inductive Ran (op : SeqOp) (u t : State) : Prop
  | stay (h : t = u)
  | exec (i : Instr) (hwf : op.wf = true → i.wf = true) (h : exec i u = .next t)
  | fastPixel (y x : Nat) (h : fastPixel y x u = .next t)
  | phase (p : Phase) (hop : op = .phase p) (h : t = u.withPhase p)
  | join (hop : op = .joinWorkers) (h : t = joinWorkers u)
  | finish (hop : op = .finish) (h : t = (u.withPhase .idle).withOutcome (some .ok))

/-- R120: an operation that a mode word selects is well formed. -/
theorem modeRows_wf : ∀ r ∈ modeRows, r.instr.wf = true := by decide

theorem runOp_ran {op : SeqOp} {u t : State} (h : runOp op u = .next t) : Ran op u t := by
  rcases runOp_next h with ⟨i, rfl, h⟩ | ⟨st, -, ⟨i, hdecode, h⟩ | rfl⟩ | ⟨p, hop, ht⟩ |
    ⟨y, x, -, h⟩ | ⟨-, h | rfl⟩ | ⟨hop, ht⟩ | ⟨hop, ht⟩
  · exact .exec i id h
  · obtain ⟨r, hr, -, -, rfl⟩ := decodeMode_ok hdecode
    exact .exec _ (fun _ => modeRows_wf r hr) h
  · exact .stay rfl
  · exact .phase p hop ht
  · exact .fastPixel y x h
  · exact .exec .snapshot (fun _ => rfl) h
  · exact .stay rfl
  · exact .join hop ht
  · exact .finish hop ht

/-- R136: an operation that a command word selects is well formed, and no reset. -/
theorem decodeCmd_wf {w : Word} {path : List Byte} {i : Instr} (h : decodeCmd w path = .ok i) :
    i.wf = true ∧ i ≠ .reset := by
  simp only [decodeCmd] at h
  split_ifs at h
  all_goals
    obtain rfl := Except.ok.inj h
    exact ⟨rfl, by simp⟩

/-! ## The frame of a move -/

section Frames

variable {s u t : State}

theorem workerFailure_cases (wid : Nat) (u : State) :
    workerFailure wid u = raiseFatal .workerFailure wid u ∨ workerFailure wid u = u := by
  unfold workerFailure
  split
  · exact .inl rfl
  · exact .inr rfl

theorem workerFailure_frame (wid : Nat) (u : State) :
    Frame [.fault, .phase, .out] u (workerFailure wid u) := by
  rcases workerFailure_cases wid u with heq | heq
  · rw [heq]
    exact (Frame.refl _ u).raiseFatal _ _ (by simp) (by simp) (by simp)
  · rw [heq]
    exact Frame.refl _ u

theorem joinRound_frame (u : State) : Frame [.disp] u (joinRound u) := by
  unfold joinRound
  have hdisp := fun v => (Frame.refl [.disp] u).withDisp v (by simp)
  split
  · exact (hdisp _).issue _ (by simp [SeqOp.issuable, SeqOp.wf, SeqOp.noHalt])
  · exact hdisp _

theorem joinWorkers_frame (u : State) : Frame [.disp] u (joinWorkers u) := by
  unfold joinWorkers
  split
  · exact (Frame.refl _ u).withDisp _ (by simp)
  · exact Frame.refl _ u

theorem setStat_frame (st : WStat) (u : State) : Frame [.disp] u (setStat st u) :=
  (Frame.refl _ u).withDisp _ (by simp)

theorem endWorker_frame (u : State) : Frame [.disp] u (endWorker u) := setStat_frame .done u

/-- R162, R164: a worker is given its task alone. -/
theorem startWorker_frame {w : Worker} (hw : u.workers[u.me]? = some w) :
    Frame [.disp] u (startWorker u w) := by
  refine (setStat_frame .busy u).withWorker hw _ fun op hop => .inr ?_
  simp only [taskOp] at hop
  split at hop
  · rw [List.mem_singleton.mp hop]
    exact ⟨rfl, rfl⟩
  · rw [List.mem_singleton.mp hop]
    exact ⟨rfl, rfl⟩
  · exact absurd hop List.not_mem_nil

/-- An issued operation other than a reset writes no external state. -/
theorem ran_frame {op : SeqOp} (h : Ran op u t) :
    exec .reset u = .next t ∨ ∃ W, Frame W u t := by
  cases h with
  | stay h => exact .inr ⟨[], h ▸ Frame.refl [] u⟩
  | exec i hwf h =>
    by_cases hi : i = .reset
    · exact .inl (hi ▸ h)
    · exact .inr ⟨_, exec_frame hi h⟩
  | fastPixel y x h => exact .inr ⟨_, fastPixel_frame h⟩
  | phase p hop h => exact .inr ⟨[.phase], h ▸ (Frame.refl _ u).withPhase p (by simp)⟩
  | join hop h => exact .inr ⟨_, h ▸ joinWorkers_frame u⟩
  | finish hop h =>
    exact .inr ⟨[.phase], h ▸ ((Frame.refl _ u).withPhase _ (by simp)).withOutcome _⟩

/-- Every move but a reset and a host's write of external state. -/
theorem move_frame (h : Move s u t) : exec .reset u = .next t ∨
    (∃ rg m a z, t = (((u.withRegs rg).withMem m).withAux a).withZbOrigin z) ∨
    ∃ W, Frame W u t := by
  cases h with
  | stay h => exact .inr (.inr ⟨[], h ▸ Frame.refl [] u⟩)
  | failure wid h => exact .inr (.inr ⟨_, h ▸ workerFailure_frame wid u⟩)
  | command w path i hdecode h => exact .inr (.inr ⟨_, exec_frame (decodeCmd_wf hdecode).2 h⟩)
  | hostWrite rg m a z hidle h hm ha => exact .inr (.inl ⟨rg, m, a, z, h⟩)
  | barrier hrunning h => exact .inr (.inr ⟨_, h ▸ joinRound_frame u⟩)
  | start w hw hrunning h => exact .inr (.inr ⟨_, h ▸ startWorker_frame hw⟩)
  | done hrunning h => exact .inr (.inr ⟨_, h ▸ endWorker_frame u⟩)
  | engine op hop hphase h => exact (ran_frame (runOp_ran h)).imp_right .inr
  | worker op w hw hop hphase hrunning h => exact (ran_frame (runOp_ran h)).imp_right .inr

end Frames

/-! ## The data invariant -/

/-- The prescale buffer is canonical and inside its bounds, and every word has a high byte of 0. -/
def PrescaleOk (p : Prescale) : Prop := Prescale.wf p = true ∧ prescaleBlackTop p = true

theorem prescaleOk_nil : PrescaleOk [] := ⟨rfl, rfl⟩

/-- R42, R87: a word with a high byte of 0, inside the buffer. -/
theorem PrescaleOk.set {p : Prescale} (h : PrescaleOk p) {i : Nat} (hi : i < 400000) {v : Word}
    (hv : v.extractLsb' 24 8 = 0#8) : PrescaleOk (sparseSet p i v) := by
  refine ⟨prescale_set_wf v h.1 hi, ?_⟩
  have htop := h.2
  simp only [prescaleBlackTop, List.all_eq_true, beq_iff_eq] at htop ⊢
  intro e he
  rcases mem_sparseSet he with rfl | he
  · exact hv
  · exact htop e he

theorem dataInv_iff {s : State} : DataInv s = true ↔ Memory.wf s.mem = true ∧
    Memory.wf s.aux = true ∧ PrescaleOk s.prescale ∧ (∀ op ∈ s.seq, op.wf = true) ∧
    ∀ w ∈ s.workers, ∀ op ∈ w.seq, op.wf = true := by
  simp only [DataInv, PrescaleOk, Bool.and_eq_true, List.all_eq_true, and_assoc]

/-- What a frame leaves of the data invariant to show: the prescale buffer. -/
theorem dataInv_of_frame {W : List Record} {s t : State} (hs : DataInv s = true)
    (h : Frame W s t) (hp : PrescaleOk t.prescale) : DataInv t = true := by
  obtain ⟨hmem, haux, -, hseq, hworkers⟩ := dataInv_iff.mp hs
  obtain ⟨-, htmem, htaux, -, -, -⟩ := h.external
  refine dataInv_iff.mpr ⟨htmem ▸ hmem, htaux ▸ haux, hp, fun op hop => ?_, fun v hv op hop => ?_⟩
  · exact (h.issued op hop).elim (hseq op) And.left
  · exact (h.workersIssued v hv op hop).elim (fun ⟨w, hw, hop⟩ => hworkers w hw op hop) And.left

/-- A frame that leaves the prescale buffer keeps the data invariant. -/
theorem dataInv_of_frame_prescale {W : List Record} {s t : State} (hs : DataInv s = true)
    (h : Frame W s t) (hW : .prescale ∉ W) : DataInv t = true := by
  obtain ⟨-, -, hp, -, -⟩ := dataInv_iff.mp hs
  exact dataInv_of_frame hs h (h.prescale hW ▸ hp)

theorem dataInv_of_reset {s t : State} (hs : DataInv s = true) (h : exec .reset s = .next t) :
    DataInv t = true := by
  obtain ⟨hmem, haux, -⟩ := dataInv_iff.mp hs
  obtain rfl := Host.Outcome.next.inj h
  exact dataInv_iff.mpr ⟨hmem, haux, prescaleOk_nil, fun _ hop => absurd hop List.not_mem_nil,
    fun _ hw => absurd hw List.not_mem_nil⟩

/-- Only three operations write the prescale buffer (R342, R282, R292). -/
theorem prescale_mem_writes {i : Instr} (hi : i ≠ .reset) (h : .prescale ∈ writes i) :
    i = .modesw ∨ (∃ y x, i = .column y x) ∨ ∃ y x v, i = .write y x v := by
  cases i <;> simp_all [writes]

theorem exec_prescaleOk {i : Instr} {s t : State} (hi : i ≠ .reset) (hwf : i.wf = true)
    (hs : PrescaleOk s.prescale) (h : exec i s = .next t) : PrescaleOk t.prescale := by
  by_cases hW : .prescale ∈ writes i
  case neg => rwa [(exec_frame hi h).prescale hW]
  rcases prescale_mem_writes hi hW with rfl | ⟨y, x, rfl⟩ | ⟨y, x, v, rfl⟩
  · obtain rfl := Host.Outcome.next.inj h
    rw [modeSwitch]
    split
    · exact hs
    · exact prescaleOk_nil
  · obtain ⟨w, -, h⟩ := onWorker_next h
    obtain ⟨v, c, rfl, -, hc, hlo, hhi⟩ := columnPixel_next h
    refine hs.set (by omega) ?_
    rcases hc with rfl | ⟨rgb, rfl⟩
    · rfl
    · exact pack_top rgb
  · rcases writePrescale_cases (writeIndex s.geom y x) v s with ⟨hlo, hhi, heq⟩ | ⟨-, heq⟩
    · obtain rfl := Host.Outcome.next.inj (heq.symm.trans h)
      exact hs.set (by omega) (by simpa [Instr.wf] using hwf)
    · cases heq.symm.trans h

theorem exec_keeps_dataInv {i : Instr} {s t : State} (hwf : i.wf = true) (hs : DataInv s = true)
    (h : exec i s = .next t) : DataInv t = true := by
  by_cases hi : i = .reset
  · exact dataInv_of_reset hs (hi ▸ h)
  · obtain ⟨-, -, hp, -, -⟩ := dataInv_iff.mp hs
    exact dataInv_of_frame hs (exec_frame hi h) (exec_prescaleOk hi hwf hp h)

theorem fastPixel_keeps_dataInv {y x : Nat} {s t : State} (hs : DataInv s = true)
    (h : fastPixel y x s = .next t) : DataInv t = true := by
  have hframe := fastPixel_frame h
  obtain ⟨-, -, hp, -, -⟩ := dataInv_iff.mp hs
  obtain ⟨w, v, rgb, -, rfl, -, hlo, hhi⟩ := fastPixel_next h
  exact dataInv_of_frame hs hframe (hp.set (by omega) (pack_top rgb))

theorem ran_keeps_dataInv {op : SeqOp} {s t : State} (hwf : op.wf = true) (hs : DataInv s = true)
    (h : Ran op s t) : DataInv t = true := by
  cases h with
  | stay h => rwa [h]
  | exec i hi h => exact exec_keeps_dataInv (hi hwf) hs h
  | fastPixel y x h => exact fastPixel_keeps_dataInv hs h
  | phase p hop h =>
    exact dataInv_of_frame_prescale hs (h ▸ (Frame.refl [.phase] s).withPhase p (by simp))
      (by simp)
  | join hop h => exact dataInv_of_frame_prescale hs (h ▸ joinWorkers_frame s) (by simp)
  | finish hop h =>
    exact dataInv_of_frame_prescale hs
      (h ▸ ((Frame.refl [.phase] s).withPhase _ (by simp)).withOutcome _) (by simp)

/-- R144: the host's writes keep the memories canonical. -/
theorem hostWrite_keeps_dataInv {s : State} (rg : Regs) {m a : Memory} (z : BitVec 24)
    (hs : DataInv s = true)
    (hm : m = s.mem ∨ (∃ i v, m = writeHalf s.mem i v) ∨ ∃ j v, m = writeWord s.mem j v)
    (ha : a = s.aux ∨ ∃ i v, a = sparseSet s.aux i v) :
    DataInv ((((s.withRegs rg).withMem m).withAux a).withZbOrigin z) = true := by
  obtain ⟨hmem, haux, hrest⟩ := dataInv_iff.mp hs
  refine dataInv_iff.mpr ⟨?_, ?_, hrest⟩
  · rcases hm with rfl | ⟨i, v, rfl⟩ | ⟨j, v, rfl⟩
    · exact hmem
    · exact writeHalf_wf i v hmem
    · exact writeWord_wf j v hmem
  · rcases ha with rfl | ⟨i, v, rfl⟩
    · exact haux
    · exact sparseSet_wf i v haux

theorem move_keeps_dataInv {s u t : State} (hs : DataInv s = true) (hu : DataInv u = true)
    (h : Move s u t) : DataInv t = true := by
  obtain ⟨-, -, -, hseq, hworkers⟩ := dataInv_iff.mp hs
  cases h with
  | stay h => rwa [h]
  | failure wid h => exact dataInv_of_frame_prescale hu (h ▸ workerFailure_frame wid u) (by simp)
  | command w path i hdecode h => exact exec_keeps_dataInv (decodeCmd_wf hdecode).1 hu h
  | hostWrite rg m a z hidle h hm ha => exact h ▸ hostWrite_keeps_dataInv rg z hu hm ha
  | barrier hrunning h => exact dataInv_of_frame_prescale hu (h ▸ joinRound_frame u) (by simp)
  | start w hw hrunning h =>
    exact dataInv_of_frame_prescale hu (h ▸ startWorker_frame hw) (by simp)
  | done hrunning h => exact dataInv_of_frame_prescale hu (h ▸ endWorker_frame u) (by simp)
  | engine op hop hphase h => exact ran_keeps_dataInv (hseq op hop) hu (runOp_ran h)
  | worker op w hw hop hphase hrunning h =>
    exact ran_keeps_dataInv (hworkers w hw op hop) hu (runOp_ran h)

/-! ## `Halted` and `FAULT` (R43, R50) -/

/-- `Halted` means `FAULT.valid = 1`. -/
def HaltAgrees (s : State) : Prop := s.phase = .halted ↔ s.fault.valid = true

/-- The block neither halts nor holds a fault. -/
def Live (s : State) : Prop := s.phase ≠ .halted ∧ s.fault.valid = false

section Halting

variable {s t : State}

theorem Live.haltAgrees (h : Live s) : HaltAgrees s :=
  ⟨fun hp => absurd hp h.1, fun hf => absurd (h.2.symm.trans hf) Bool.false_ne_true⟩

theorem HaltAgrees.live (h : HaltAgrees s) (hphase : s.phase ≠ .halted) : Live s :=
  ⟨hphase, Bool.eq_false_iff.mpr fun hf => hphase (h.mpr hf)⟩

theorem HaltAgrees.of_eq (h : HaltAgrees s) (hphase : t.phase = s.phase)
    (hfault : t.fault = s.fault) : HaltAgrees t := by
  rwa [HaltAgrees, hphase, hfault]

theorem Live.of_eq (h : Live s) (hphase : t.phase = s.phase) (hfault : t.fault = s.fault) :
    Live t := by
  rwa [Live, hphase, hfault]

/-- A change of phase that does not halt. -/
theorem Live.of_phase (h : Live s) (hphase : t.phase ≠ .halted) (hfault : t.fault = s.fault) :
    Live t := ⟨hphase, hfault ▸ h.2⟩

theorem Live.withGeom (h : Live s) (g : Geometry) : Live (s.withGeom g) := h

theorem haltAgrees_raiseFatal (c : FatalCause) (info : Int) (s : State) :
    HaltAgrees (raiseFatal c info s) := by
  simp [HaltAgrees]

theorem Live.skipFrame (h : Live s) (c : SkipCause) : HaltAgrees (Machine.skipFrame c s) :=
  (h.of_phase (t := Machine.skipFrame c s) (by simp) rfl).haltAgrees

theorem Live.resolveVactive (h : Live s) : HaltAgrees (Machine.resolveVactive s).state := by
  rcases resolveVactive_cases s with ⟨-, heq⟩ | ⟨-, heq⟩ | ⟨-, -, heq⟩
  · rw [heq]
    exact haltAgrees_raiseFatal _ _ _
  · rw [heq]
    exact (h.withGeom _).skipFrame _
  · rw [heq]
    exact (h.withGeom _).haltAgrees

theorem Live.resolveSkip (h : Live s) : HaltAgrees (Machine.resolveSkip s).state := by
  rcases resolveSkip_cases s with ⟨c, heq⟩ | ⟨-, -, -, -, heq⟩
  · rw [heq]
    exact h.skipFrame c
  · rw [heq]
    exact h.haltAgrees

theorem Live.resolveFit (h : Live s) : HaltAgrees (Machine.resolveFit s).state := by
  rcases resolveFit_cases s with heq | ⟨-, heq⟩
  · rw [heq]
    exact haltAgrees_raiseFatal _ _ _
  · rw [heq]
    exact h.haltAgrees

theorem Live.fastTests (h : Live s) : HaltAgrees (Machine.fastTests s).state := by
  unfold Machine.fastTests
  split_ifs
  · exact h.skipFrame _
  · exact h.skipFrame _
  · exact h.skipFrame _
  · exact h.skipFrame _
  · exact h.haltAgrees

theorem Live.fastFit (h : Live s) : HaltAgrees (Machine.fastFit s).state := by
  unfold Machine.fastFit
  split
  · exact haltAgrees_raiseFatal _ _ _
  · exact h.haltAgrees

/-- R320: neither R230 to R233 nor the native resolution writes the phase or `FAULT`. -/
theorem Live.fastGeom (h : Live s) : HaltAgrees (Machine.fastGeom s).state := by
  obtain ⟨p, hframe, hprologue⟩ := Frame.fastPrologue s
  have hlive : Live p := h.of_eq (hframe.phase (by simp)) (hframe.fault (by simp))
  have hend := hlive.resolveVactive
  rcases resolveVactive_cases p with ⟨-, heq⟩ | ⟨-, heq⟩ | ⟨-, -, heq⟩
  · rwa [fastGeom_of_ended (hprologue.trans heq), ← heq]
  · rwa [fastGeom_of_ended (hprologue.trans heq), ← heq]
  · rw [fastGeom_of_go (hprologue.trans heq)]
    exact ((hlive.withGeom _).withGeom _).fastTests

/-- Only these operations write the phase, and no other operation writes `FAULT`. -/
theorem phase_mem_writes {i : Instr} (hi : i ≠ .reset) (h : .phase ∈ writes i) :
    i ∈ ([.update, .resVactive, .resSkip, .resFit, .fastGeom, .fastFit, .dispRun .filt,
      .dispRun .fast, .composeFull, .composeCrop] : List Instr) := by
  cases i
  case dispRun task => cases task <;> simp
  all_goals simp_all [writes]

theorem fault_mem_writes {i : Instr} (hi : i ≠ .reset) (h : .fault ∈ writes i) :
    i ∈ ([.resVactive, .resFit, .fastGeom, .fastFit, .dispRun .filt, .dispRun .fast]
      : List Instr) := by
  cases i
  case dispRun task => cases task <;> simp
  all_goals simp_all [writes]

theorem Live.execDispRun (h : Live s) {task : Task} (ht : Machine.execDispRun task s = .next t) :
    HaltAgrees t := by
  unfold Machine.execDispRun at ht
  split at ht
  case h_1 =>
    obtain rfl := Host.Outcome.next.inj ht
    exact h.haltAgrees
  case h_2 => cases ht
  all_goals
    obtain rfl := Host.Outcome.next.inj ht
    exact haltAgrees_raiseFatal _ _ _

theorem Live.composeFull (h : Live s) (ht : Machine.composeFull s = .next t) : HaltAgrees t := by
  unfold Machine.composeFull at ht
  split_ifs at ht
  · obtain rfl := Host.Outcome.next.inj ht
    exact h.skipFrame _
  · obtain rfl := Host.Outcome.next.inj ht
    exact h.haltAgrees

theorem Live.composeCrop (h : Live s) (ht : Machine.composeCrop s = .next t) : HaltAgrees t := by
  unfold Machine.composeCrop at ht
  split_ifs at ht
  · obtain rfl := Host.Outcome.next.inj ht
    exact h.skipFrame _
  · obtain rfl := Host.Outcome.next.inj ht
    exact h.haltAgrees

/-- No operation parts `Halted` from `FAULT`. -/
theorem Live.exec (h : Live s) {i : Instr} (hi : i ≠ .reset) (ht : Machine.exec i s = .next t) :
    HaltAgrees t := by
  by_cases hW : .phase ∈ writes i
  case neg =>
    have hframe := exec_frame hi ht
    refine h.haltAgrees.of_eq (hframe.phase hW) (hframe.fault fun hfault => hW ?_)
    have hmem := fault_mem_writes hi hfault
    simp only [List.mem_cons, List.not_mem_nil, or_false] at hmem
    rcases hmem with rfl | rfl | rfl | rfl | rfl | rfl <;> simp [writes]
  have hmem := phase_mem_writes hi hW
  simp only [List.mem_cons, List.not_mem_nil, or_false] at hmem
  rcases hmem with rfl | rfl | rfl | rfl | rfl | rfl | rfl | rfl | rfl | rfl
  · obtain ⟨-, -, ht⟩ := hostPort_next (k := fun s => .next (startUpdate s)) ht
    obtain rfl := Host.Outcome.next.inj ht
    exact (h.of_phase (t := startUpdate s) (by simp [startUpdate]) rfl).haltAgrees
  · obtain rfl := Host.Outcome.next.inj ht
    exact h.resolveVactive
  · obtain rfl := Host.Outcome.next.inj ht
    exact h.resolveSkip
  · obtain rfl := Host.Outcome.next.inj ht
    exact h.resolveFit
  · obtain rfl := Host.Outcome.next.inj ht
    exact h.fastGeom
  · obtain rfl := Host.Outcome.next.inj ht
    exact h.fastFit
  · exact h.execDispRun ht
  · exact h.execDispRun ht
  · exact h.composeFull ht
  · exact h.composeCrop ht
end Halting

/-! ## The dispatcher and its pool (R44, R160) -/

/-- What the control invariant says of the dispatcher with a pool of `n` workers. -/
structure PoolOk (d : Disp) (n : Nat) : Prop where
  statuses : d.wstat.length = d.w
  pool : n = d.w
  constructed : d.state ≠ .unconstructed → 1 ≤ d.w
  unconstructed : d.state = .unconstructed → d.w = 0
  task : d.task.isSome ↔ d.state = .running

/-- R161: at least one worker, whether requested or detected. -/
theorem one_le_resolvedWorkers (c : Cfg) : 1 ≤ resolvedWorkers c := by
  unfold resolvedWorkers Config.hwParallelism
  split
  · omega
  · rename_i h
    exact Nat.one_le_iff_ne_zero.mpr fun hzero => h (BitVec.eq_of_toNat_eq hzero)

/-- Everything a move can do to the dispatcher: construct the pool, stop an idle pool, remember
a stop, start or end a round, set the workers' statuses, join the workers, or leave it. -/
inductive DispMove (s : State) (d : Disp) (n : Nat) : Prop
  | stay (hd : d = s.disp) (hn : n = s.workers.length)
  | init (k : Nat) (hk : 1 ≤ k) (hs : s.disp.state = .unconstructed)
      (hd : d = ⟨.ready, k, none, List.replicate k .idle, false⟩) (hn : n = k)
  | stop (hs : s.disp.state = .ready) (hd : d = { s.disp with state := .stopping })
      (hn : n = s.workers.length)
  | remember (hs : s.disp.state = .running) (hd : d = { s.disp with stopReq := true })
      (hn : n = s.workers.length)
  | run (task : Task) (hs : s.disp.state = .ready)
      (hd : d = ⟨.running, s.disp.w, some task, s.disp.wstat.map fun _ => .pending,
        s.disp.stopReq⟩)
      (hn : n = s.workers.length)
  | stat (st : List WStat) (hd : d = { s.disp with wstat := st })
      (hst : st.length = s.disp.wstat.length) (hn : n = s.workers.length)
  | barrier (hs : s.disp.state = .running) (b : Bool)
      (hd : d = ⟨if b then .stopping else .ready, s.disp.w, none, s.disp.wstat.map fun _ => .idle,
        false⟩)
      (hn : n = s.workers.length)
  | join (hs : s.disp.state = .stopping) (hd : d = { s.disp with state := .tornDown })
      (hn : n = s.workers.length)

section Pool

variable {s u t : State}

/-- Only these operations write the dispatcher, and only the first of them the pool. -/
theorem disp_mem_writes {i : Instr} (hi : i ≠ .reset) (h : .disp ∈ writes i) :
    i = .dispInit ∨ i = .dispTeardown ∨ ∃ k, i = .dispRun k := by
  cases i <;> simp_all [writes]

theorem pool_mem_writes {i : Instr} (hi : i ≠ .reset) (h : .pool ∈ writes i) : i = .dispInit := by
  cases i <;> simp_all [writes]

theorem execDispInit_dispMove (h : execDispInit s = .next t) :
    DispMove s t.disp t.workers.length := by
  obtain ⟨-, -, h⟩ := hostPort_next h
  split at h
  · obtain rfl := Host.Outcome.next.inj h
    exact .init _ (one_le_resolvedWorkers s.cfg) ‹_› rfl (List.length_replicate ..)
  · cases h

theorem execDispTeardown_dispMove (h : execDispTeardown s = .next t) :
    DispMove s t.disp t.workers.length := by
  obtain ⟨-, -, h⟩ := hostPort_next h
  split at h
  · obtain rfl := Host.Outcome.next.inj h
    exact .stop ‹_› rfl rfl
  · split at h
    · obtain rfl := Host.Outcome.next.inj h
      exact .remember ‹_› rfl rfl
    · cases h

theorem execDispRun_dispMove {task : Task} (h : execDispRun task s = .next t) :
    DispMove s t.disp t.workers.length := by
  unfold execDispRun at h
  split at h
  case h_1 =>
    obtain rfl := Host.Outcome.next.inj h
    exact .run task ‹_› rfl rfl
  case h_2 => cases h
  all_goals
    obtain rfl := Host.Outcome.next.inj h
    exact .stay (raiseFatal_disp _ _ _) (by rw [raiseFatal_workers])

theorem exec_dispMove {i : Instr} (hi : i ≠ .reset) (h : exec i s = .next t) :
    DispMove s t.disp t.workers.length := by
  by_cases hW : .disp ∈ writes i
  case neg =>
    have hframe := exec_frame hi h
    refine .stay (hframe.disp hW) (hframe.pool fun hpool => hW ?_)
    rw [pool_mem_writes hi hpool]
    simp [writes]
  rcases disp_mem_writes hi hW with rfl | rfl | ⟨k, rfl⟩
  · exact execDispInit_dispMove h
  · exact execDispTeardown_dispMove h
  · exact execDispRun_dispMove h

theorem dispMove_of_frame {W : List Record} (h : Frame W s t) (hdisp : .disp ∉ W)
    (hpool : .pool ∉ W) : DispMove s t.disp t.workers.length :=
  .stay (h.disp hdisp) (h.pool hpool)

theorem ran_dispMove {op : SeqOp} (h : Ran op s t) :
    exec .reset s = .next t ∨ DispMove s t.disp t.workers.length := by
  cases h with
  | stay h => exact .inr (h ▸ .stay rfl rfl)
  | exec i hwf h =>
    by_cases hi : i = .reset
    · exact .inl (hi ▸ h)
    · exact .inr (exec_dispMove hi h)
  | fastPixel y x h => exact .inr (dispMove_of_frame (fastPixel_frame h) (by simp) (by simp))
  | phase p hop h => exact .inr (h ▸ .stay rfl rfl)
  | join hop h =>
    subst h
    unfold joinWorkers
    split
    · exact .inr (.join ‹_› rfl rfl)
    · exact .inr (.stay rfl rfl)
  | finish hop h => exact .inr (h ▸ .stay rfl rfl)

theorem joinRound_dispMove (h : u.disp.state = .running) :
    DispMove u (joinRound u).disp (joinRound u).workers.length := by
  refine .barrier h u.disp.stopReq ?_ ?_
  · unfold joinRound
    cases u.disp.stopReq <;> rfl
  · unfold joinRound
    split <;> rfl

theorem move_dispMove (h : Move s u t) :
    exec .reset u = .next t ∨ DispMove u t.disp t.workers.length := by
  cases h with
  | stay h => exact .inr (h ▸ .stay rfl rfl)
  | failure wid h =>
    exact .inr (dispMove_of_frame (h ▸ workerFailure_frame wid u) (by simp) (by simp))
  | command w path i hdecode h => exact .inr (exec_dispMove (decodeCmd_wf hdecode).2 h)
  | hostWrite rg m a z hidle h hm ha => exact .inr (h ▸ .stay rfl rfl)
  | barrier hrunning h => exact .inr (h ▸ joinRound_dispMove hrunning)
  | start w hw hrunning h =>
    exact .inr (h ▸ .stat _ rfl (List.length_set ..) (withWorker_length _ _))
  | done hrunning h => exact .inr (h ▸ .stat _ rfl (List.length_set ..) rfl)
  | engine op hop hphase h => exact ran_dispMove (runOp_ran h)
  | worker op w hw hop hphase hrunning h => exact ran_dispMove (runOp_ran h)

/-- R160: the edges, and `DISP.W` fixed once the pool is constructed. -/
theorem DispMove.edge {d : Disp} {n : Nat} (h : DispMove s d n) :
    dispEdge s.disp.state d.state = true ∧ (s.disp.state ≠ .unconstructed → d.w = s.disp.w) := by
  have hrefl : ∀ x : DispState, dispEdge x x = true := by intro x; cases x <;> rfl
  cases h with
  | stay hd hn => exact hd ▸ ⟨hrefl _, fun _ => rfl⟩
  | init k hk hs hd hn => exact ⟨by rw [hs, hd]; rfl, fun hne => absurd hs hne⟩
  | stop hs hd hn => exact ⟨by rw [hs, hd]; rfl, fun _ => hd ▸ rfl⟩
  | remember hs hd hn => exact ⟨by rw [hd]; exact hrefl _, fun _ => hd ▸ rfl⟩
  | run task hs hd hn => exact ⟨by rw [hs, hd]; rfl, fun _ => hd ▸ rfl⟩
  | stat st hd hst hn => exact ⟨by rw [hd]; exact hrefl _, fun _ => hd ▸ rfl⟩
  | barrier hs b hd hn => exact ⟨by rw [hs, hd]; cases b <;> rfl, fun _ => hd ▸ rfl⟩
  | join hs hd hn => exact ⟨by rw [hs, hd]; rfl, fun _ => hd ▸ rfl⟩

theorem PoolOk.move {d : Disp} {n : Nat} (hs : PoolOk s.disp s.workers.length)
    (h : DispMove s d n) : PoolOk d n := by
  obtain ⟨hstat, hpool, hcon, huncon, htask⟩ := hs
  cases h with
  | stay hd hn => exact hd ▸ hn ▸ ⟨hstat, hpool, hcon, huncon, htask⟩
  | init k hk hs hd hn =>
    subst hd hn
    exact ⟨List.length_replicate .., rfl, fun _ => hk, fun h => (by cases h), by simp⟩
  | stop hs hd hn =>
    subst hd hn
    exact ⟨hstat, hpool, fun _ => hcon (by simp [hs]), fun h => (by cases h), by simp [htask, hs]⟩
  | remember hs hd hn =>
    subst hd hn
    exact ⟨hstat, hpool, hcon, huncon, htask⟩
  | run task hs hd hn =>
    subst hd hn
    exact ⟨(List.length_map _).trans hstat, hpool, fun _ => hcon (by simp [hs]),
      fun h => (by cases h), by simp⟩
  | stat st hd hst hn =>
    subst hd hn
    exact ⟨hst.trans hstat, hpool, hcon, huncon, htask⟩
  | barrier hs b hd hn =>
    subst hd hn
    exact ⟨(List.length_map _).trans hstat, hpool, fun _ => hcon (by simp [hs]),
      fun h => (by cases b <;> cases h), by cases b <;> simp⟩
  | join hs hd hn =>
    subst hd hn
    exact ⟨hstat, hpool, fun _ => hcon (by simp [hs]), fun h => (by cases h), by simp [htask, hs]⟩

end Pool

/-! ## The control invariant -/

section Control

variable {s u t : State}

theorem controlInv_iff : ControlInv s ↔ HaltAgrees s ∧ PoolOk s.disp s.workers.length ∧
    (∀ op ∈ s.seq, op.noHalt = true) ∧ (∀ w ∈ s.workers, ∀ op ∈ w.seq, op.isWorkers = true) ∧
    s.geom.InRange := by
  constructor
  · intro h
    exact ⟨h.halted, ⟨h.statuses, h.pool, h.constructed, h.unconstructed, h.task⟩,
      List.all_eq_true.mp h.issued, fun w hw => List.all_eq_true.mp (h.workersIssued w hw),
      h.xAdd, h.yAdd, h.vSync, h.width⟩
  · rintro ⟨hhalt, hpool, hseq, hworkers, hx, hy, hsync, hwidth⟩
    exact ⟨hhalt, hpool.statuses, hpool.pool, hpool.constructed, hpool.unconstructed, hpool.task,
      List.all_eq_true.mpr hseq, fun w hw => List.all_eq_true.mpr (hworkers w hw), hx, hy, hsync,
      hwidth⟩

/-- What a frame leaves of the control invariant to show. -/
theorem controlInv_of_frame {W : List Record} (hs : ControlInv s) (h : Frame W s t)
    (hhalt : HaltAgrees t) (hpool : PoolOk t.disp t.workers.length) : ControlInv t := by
  obtain ⟨-, -, hseq, hworkers, hrange⟩ := controlInv_iff.mp hs
  exact controlInv_iff.mpr ⟨hhalt, hpool,
    fun op hop => (h.issued op hop).elim (hseq op) And.right,
    fun v hv op hop => (h.workersIssued v hv op hop).elim
      (fun ⟨w, hw, hop⟩ => hworkers w hw op hop) And.right,
    h.inRange hrange⟩

/-- What stands in front of a move keeps the control invariant. -/
theorem controlInv_of_prepared (hs : ControlInv s) (h : Frame [] s u) : ControlInv u := by
  obtain ⟨hhalt, hpool, -⟩ := controlInv_iff.mp hs
  refine controlInv_of_frame hs h (hhalt.of_eq (h.phase ?_) (h.fault ?_))
    (hpool.move (dispMove_of_frame h ?_ ?_))
  all_goals exact List.not_mem_nil

/-- R430: the state after a reset meets the control invariant. -/
theorem controlInv_of_reset (h : exec .reset s = .next t) : ControlInv t := by
  obtain rfl := Host.Outcome.next.inj h
  refine controlInv_iff.mpr ⟨?_, ⟨rfl, rfl, fun h => absurd rfl h, fun _ => rfl, ?_⟩, ?_, ?_, ?_⟩
  · simp [HaltAgrees, State.reset]
  · simp [State.reset]
  · exact fun _ hop => absurd hop List.not_mem_nil
  · exact fun _ hw => absurd hw List.not_mem_nil
  · simp [Geometry.InRange, State.reset, Geometry.zero]

/-- An issued operation that is no change of phase to `Halted` does not part `Halted` from
`FAULT`. -/
theorem live_ran {op : SeqOp} (hlive : Live u) (hop : op.noHalt = true) (h : Ran op u t) :
    exec .reset u = .next t ∨ HaltAgrees t := by
  cases h with
  | stay h => exact .inr (h ▸ hlive.haltAgrees)
  | exec i hwf h =>
    by_cases hi : i = .reset
    · exact .inl (hi ▸ h)
    · exact .inr (hlive.exec hi h)
  | fastPixel y x h =>
    have hframe := fastPixel_frame h
    exact .inr (hlive.haltAgrees.of_eq (hframe.phase (by simp)) (hframe.fault (by simp)))
  | phase p hp h =>
    subst hp h
    exact .inr (hlive.of_phase (t := u.withPhase p) (by simpa [SeqOp.noHalt] using hop)
      rfl).haltAgrees
  | join hp h =>
    have hframe := h ▸ joinWorkers_frame u
    exact .inr (hlive.haltAgrees.of_eq (hframe.phase (by simp)) (hframe.fault (by simp)))
  | finish hp h =>
    exact .inr (hlive.of_phase (by simp [h]) (by simp [h])).haltAgrees

/-- No move but a reset parts `Halted` from `FAULT`. -/
theorem move_haltAgrees (hs : ControlInv s) (hu : HaltAgrees u) (h : Move s u t) :
    exec .reset u = .next t ∨ HaltAgrees t := by
  obtain ⟨-, -, hseq, hworkers, -⟩ := controlInv_iff.mp hs
  have keep : Frame [.disp] u t → HaltAgrees t := fun hframe =>
    hu.of_eq (hframe.phase (by simp)) (hframe.fault (by simp))
  cases h with
  | stay h => exact .inr (h ▸ hu)
  | failure wid h =>
    refine .inr ?_
    rcases workerFailure_cases wid u with heq | heq
    · rw [h, heq]
      exact haltAgrees_raiseFatal _ _ _
    · rwa [h, heq]
  | command w path i hdecode h =>
    obtain ⟨k, hport⟩ := exec_of_decodeCmd hdecode
    obtain ⟨hfault, hidle, -⟩ := hostPort_next ((hport u).symm.trans h)
    exact .inr (Live.exec ⟨by simp [hidle], hfault⟩ (decodeCmd_wf hdecode).2 h)
  | hostWrite rg m a z hidle h hm ha => exact .inr (h ▸ hu)
  | barrier hrunning h => exact .inr (keep (h ▸ joinRound_frame u))
  | start w hw hrunning h => exact .inr (keep (h ▸ startWorker_frame hw))
  | done hrunning h => exact .inr (keep (h ▸ endWorker_frame u))
  | engine op hop hphase h => exact live_ran (hu.live hphase) (hseq op hop) (runOp_ran h)
  | worker op w hw hop hphase hrunning h =>
    refine live_ran (hu.live hphase) ?_ (runOp_ran h)
    have hmine := hworkers w hw op hop
    cases op with
    | phase p => cases hmine
    | _ => rfl

/-- Every move keeps the control invariant. -/
theorem move_keeps_controlInv (hs : ControlInv s) (hu : ControlInv u) (h : Move s u t) :
    ControlInv t := by
  obtain ⟨hhalt, hpool, hrest⟩ := controlInv_iff.mp hu
  rcases move_frame h with hreset | ⟨rg, m, a, z, rfl⟩ | ⟨W, hframe⟩
  · exact controlInv_of_reset hreset
  · exact controlInv_iff.mpr ⟨hhalt, hpool, hrest⟩
  · rcases move_dispMove h with hreset | hdisp
    · exact controlInv_of_reset hreset
    · rcases move_haltAgrees hs hhalt h with hreset | hhalt
      · exact controlInv_of_reset hreset
      · exact controlInv_of_frame hu hframe hhalt (hpool.move hdisp)

end Control

/-! ## What every step keeps -/

section Step

variable {s t : State}

/-- No step changes the noise or the memory's limit: the reset keeps them, the host cannot write
them, and every other move writes engine records alone. -/
theorem step_keeps_parameters (h : step s = .next t) :
    t.noise = s.noise ∧ t.memLimit = s.memLimit := by
  have reset : ∀ u, exec .reset u = .next t → t.noise = u.noise ∧ t.memLimit = u.memLimit := by
    intro u hreset
    obtain rfl := Host.Outcome.next.inj hreset
    exact ⟨rfl, rfl⟩
  rcases step_move h with ⟨r, -, hreset⟩ | ⟨u, hu, hmove⟩
  · exact reset (s.withEnv r) hreset
  · obtain ⟨-, -, -, -, hlimit, hnoise⟩ := hu.external
    rw [← hlimit, ← hnoise]
    rcases move_frame hmove with hreset | ⟨rg, m, a, z, rfl⟩ | ⟨W, hframe⟩
    · exact reset u hreset
    · exact ⟨rfl, rfl⟩
    · obtain ⟨-, -, -, -, hlimit, hnoise⟩ := hframe.external
      exact ⟨hnoise, hlimit⟩

/-- R60: `OUT` only grows. -/
theorem step_out_grows (h : step s = .next t) :
    (∃ l, t.out = s.out ++ l) ∨ ∃ r, exec .reset r = .next t := by
  rcases step_move h with ⟨r, -, hreset⟩ | ⟨u, hu, hmove⟩
  · exact .inr ⟨_, hreset⟩
  · rw [← hu.out List.not_mem_nil]
    rcases move_frame hmove with hreset | ⟨rg, m, a, z, rfl⟩ | ⟨W, hframe⟩
    · exact .inr ⟨u, hreset⟩
    · exact .inl ⟨[], (List.append_nil _).symm⟩
    · exact .inl hframe.grows

/-- The records of the engine that a round leaves alone (R356). -/
theorem Frame.round {W : List Record} (h : Frame W s t)
    (hW : ∀ r ∈ W, r = .disp ∨ r = .prescale) : t.out = s.out ∧ t.geom = s.geom ∧
    t.snap = s.snap ∧ t.phase = s.phase ∧ t.cfgCopy = s.cfgCopy ∧ t.interlace = s.interlace ∧
    t.mem = s.mem := by
  refine ⟨h.out ?_, h.geom ?_, h.snap ?_, h.phase ?_, h.cfgCopy ?_, h.interlace ?_,
    h.external.2.1⟩
  all_goals exact fun hmem => absurd (hW _ hmem) (by simp)

/-- R280 to R283, R322: the operations of a worker's task write the worker in turn and the prescale
buffer. -/
theorem runOp_isWorkers_frame {op : SeqOp} (hop : op.isWorkers = true)
    (h : runOp op s = .next t) : ∃ W, Frame W s t ∧ ∀ r ∈ W, r = .prescale := by
  cases op with
  | fastPixel y x => exact ⟨_, fastPixel_frame h, by simp⟩
  | op i =>
    have hi : writes i = [] ∨ writes i = [.prescale] := by
      cases i <;> simp_all [SeqOp.isWorkers, writes]
    have hne : i ≠ .reset := fun hi => by rw [hi] at hop; cases hop
    refine ⟨_, exec_frame hne h, fun r hr => ?_⟩
    rcases hi with hi | hi
    · rw [hi] at hr
      exact absurd hr List.not_mem_nil
    · rw [hi] at hr
      exact List.mem_singleton.mp hr
  | _ => cases hop

theorem joinRound_w (s : State) : (joinRound s).disp.w = s.disp.w := by
  unfold joinRound
  split <;> rfl

/-- A step of a round: the barrier, a worker's start or end, or an operation of its task. -/
theorem roundStep_frame (hs : ControlInv s) (h : roundStep s = .next t) :
    t.disp.w = s.disp.w ∧ ∃ W, Frame W s t ∧ ∀ r ∈ W, r = .disp ∨ r = .prescale := by
  obtain ⟨-, -, -, hworkers, -⟩ := controlInv_iff.mp hs
  rcases roundStep_next h with ⟨-, -, rfl⟩ | ⟨i, k, h⟩
  · exact ⟨joinRound_w s, _, joinRound_frame s, by simp⟩
  have hme := ((Frame.refl [] s).withTick k).withMe i
  obtain ⟨w, hw, ⟨-, rfl⟩ | ⟨-, -, rfl⟩ | ⟨-, op, r, hseq, h⟩⟩ := workerStep_next h
  · exact ⟨rfl, _, hme.trans (startWorker_frame hw), by simp⟩
  · exact ⟨rfl, _, hme.trans (endWorker_frame _), by simp⟩
  · have hop : op ∈ w.seq := hseq ▸ List.mem_cons_self
    obtain ⟨W, hframe, hW⟩ :=
      runOp_isWorkers_frame (hworkers w (List.mem_of_getElem? hw) op hop) h
    have hpop := hme.withWorker hw { w with seq := r } fun op' hop' =>
      .inl (hseq ▸ List.mem_cons_of_mem _ hop')
    have hdisp : t.disp = s.disp := (hpop.trans hframe).disp fun h => by cases hW _ h
    exact ⟨by rw [hdisp], W, hpop.trans hframe, fun r hr => .inr (hW r hr)⟩

/-- With no event, a round in flight and no halt, a step is the round's. -/
theorem step_of_running (henv : s.env = []) (hphase : s.phase ≠ .halted)
    (hrunning : s.disp.state = .running) : step s = roundStep s := by
  simp only [step, envStep, henv, machineStep, if_neg hphase, if_pos hrunning]

end Step

/-! ## The writers of each record -/

section Writers

variable {i : Instr} (hi : i ≠ .reset)

include hi

theorem cfg_mem_writes (h : .cfg ∈ writes i) : ∃ a, i = .cfgwr a := by
  cases i <;> simp_all [writes]

theorem snap_mem_writes (h : .snap ∈ writes i) : i = .resSnap ∨ i = .fastGeom := by
  cases i <;> simp_all [writes]

theorem interlace_mem_writes (h : .interlace ∈ writes i) :
    i = .resField ∨ i = .fieldInterlaced := by
  cases i <;> simp_all [writes]

theorem warned_mem_writes (h : .warned ∈ writes i) : i = .resCtrl ∨ i = .fastGeom := by
  cases i <;> simp_all [writes]

theorem lastIntent_mem_writes (h : .lastIntent ∈ writes i) : i = .modesw := by
  cases i <;> simp_all [writes]

theorem snapreq_mem_writes (h : .snapreq ∈ writes i) : i = .snapshot ∨ ∃ p, i = .snapreq p := by
  cases i <;> simp_all [writes]

theorem cfgCopy_mem_writes (h : .cfgCopy ∈ writes i) : i = .update := by
  cases i <;> simp_all [writes]

theorem geom_mem_writes (h : .geom ∈ writes i) :
    i ∈ ([.resExtent, .resCtrl, .resTv, .resHporch, .resHclamp0, .resField, .fieldInterlaced,
      .resVporch, .resCanvas, .resVactive, .resBorder, .resPtr, .fastGeom] : List Instr) := by
  cases i <;> simp_all [writes]

theorem desc_mem_writes (h : .desc ∈ writes i) :
    i ∈ ([.composeFull, .composeCrop, .composeFast, .widescreen] : List Instr) := by
  cases i <;> simp_all [writes]

theorem out_mem_writes (h : .out ∈ writes i) :
    i ∈ ([.resCtrl, .resVactive, .resFit, .fastGeom, .fastFit, .dispRun .filt, .dispRun .fast,
      .sink, .snapshot, .present] : List Instr) := by
  cases i
  case dispRun task => cases task <;> simp
  all_goals simp_all [writes]

end Writers

/-! ## A halted block (R385) -/

/-- R385: a step of a halted block is a RESET, or only takes the environment's next event. -/
theorem step_of_halted_tail {s t : State} (hphase : s.phase = .halted) (h : step s = .next t) :
    s.env.head? = some .reset ∨ t = s.withEnv s.env.tail := by
  have htake : ∀ r, (s.withEnv r).phase = .halted := fun _ => hphase
  unfold step envStep at h
  split at h
  next henv =>
    rw [machineStep_of_halted hphase h, henv]
    exact .inr (by rw [List.tail_nil, ← henv, State.withEnv_self])
  next r henv => exact .inr (by rw [machineStep_of_halted (htake r) h, henv, List.tail_cons])
  next r henv => exact .inl (by rw [henv, List.head?_cons])
  next wid r henv =>
    obtain rfl := Host.Outcome.next.inj h
    exact .inr (by rw [workerFailure_of_halted (htake r), henv, List.tail_cons])

/-- R144: a host's write passes the host port. -/
theorem hostAction_write {a : HostAction} (ha : ∀ w path, a ≠ .command w path) (s : State) :
    ∃ k, hostAction a s = hostPort s k := by
  cases a with
  | command w path => exact absurd rfl (ha w path)
  | _ =>
    rw [hostAction, hostWrite]
    exact ⟨_, rfl⟩

/-- R390: with the host port closed every action of the host is refused. -/
theorem hostAction_refused {s : State} (a : HostAction) (hfault : s.fault.valid = true) :
    ∃ r, hostAction a s = .refused r := by
  have hport : ∀ k, hostPort s k = .refused .faulted := fun k => if_pos hfault
  by_cases ha : ∀ w path, a ≠ .command w path
  · obtain ⟨k, hk⟩ := hostAction_write ha s
    exact ⟨_, hk.trans (hport k)⟩
  · push Not at ha
    obtain ⟨w, path, rfl⟩ := ha
    rw [hostAction]
    split
    next i hdecode =>
      obtain ⟨k, hk⟩ := exec_of_decodeCmd hdecode
      exact ⟨_, (hk s).trans (hport k)⟩
    next op _ => exact ⟨_, rfl⟩
    next st _ => exact ⟨_, rfl⟩

end Sys2Proof.Machine

namespace Sys2Proof.Proofs

open Sys2Proof.Machine

/-- Settles O59: each move by what it writes, the operation it runs being well formed where it was
issued or decoded. -/
theorem dataInvariantIsKept : Obligations.DataInvariantIsKept := by
  intro s t hs hstep
  rcases step_move hstep with ⟨r, -, hreset⟩ | ⟨u, hu, hmove⟩
  · exact dataInv_of_reset (s := s.withEnv r) hs hreset
  · exact move_keeps_dataInv hs (dataInv_of_frame_prescale hs hu List.not_mem_nil) hmove

/-- Settles O60: each move by what it writes, what it does to the dispatcher, and how it ends. -/
theorem controlInvariantIsKept : Obligations.ControlInvariantIsKept := by
  intro s t hs hstep
  rcases step_move hstep with ⟨r, -, hreset⟩ | ⟨u, hu, hmove⟩
  · exact controlInv_of_reset hreset
  · exact move_keeps_controlInv hs (controlInv_of_prepared hs hu) hmove

/-- Settles O58: the data invariant by evaluation, the control invariant as after any RESET. -/
theorem invariantsHoldAtReset : Obligations.InvariantsHoldAtReset :=
  ⟨by decide, controlInv_of_reset (s := State.reset) rfl⟩

/-- Settles O50: each move is an edge or leaves the dispatcher's state. -/
theorem dispatcherMovesAlongItsEdges : Obligations.DispatcherMovesAlongItsEdges := by
  intro s t hstep
  rcases step_move hstep with ⟨r, -, hreset⟩ | ⟨u, hu, hmove⟩
  · exact .inr ⟨_, hreset⟩
  · rw [← hu.disp List.not_mem_nil]
    rcases move_dispMove hmove with hreset | hdisp
    · exact .inr ⟨u, hreset⟩
    · exact .inl hdisp.edge

/-- Settles O56: the output by the frame of each move, a round's steps by the frame of the
operations of a task. -/
theorem outputIsAppendOnly : Obligations.OutputIsAppendOnly := by
  refine ⟨fun s t => step_out_grows, fun s t hs henv hphase hrunning hstep => ?_⟩
  rw [step_of_running henv hphase hrunning] at hstep
  obtain ⟨hw, W, hframe, hW⟩ := roundStep_frame hs hstep
  obtain ⟨hout, hgeom, hsnap, hphase, hcfg, his, hmem⟩ := hframe.round hW
  exact ⟨hout, hgeom, hsnap, hphase, hcfg, his, hmem, hw⟩

/-- Settles O57: the records an operation does not write stay, and their writers are read off. -/
theorem recordsHaveTheirWriters : Obligations.RecordsHaveTheirWriters := by
  refine ⟨fun s t => step_keeps_parameters, fun i s t h => ?_⟩
  by_cases hi : i = .reset
  · subst hi
    obtain rfl := Host.Outcome.next.inj h
    exact ⟨⟨rfl, rfl, rfl, rfl, rfl, rfl⟩, fun hne => absurd rfl hne⟩
  have hframe := exec_frame hi h
  refine ⟨hframe.external, fun _ => ⟨fun hn => hframe.cfg fun hW => ?_,
    fun h1 h2 => hframe.snap fun hW => ?_, fun h1 h2 => hframe.interlace fun hW => ?_,
    hframe.authority, fun h1 h2 => hframe.warned fun hW => ?_, hframe.vbus, hframe.nolerp16,
    fun hn => hframe.lastIntent fun hW => hn (lastIntent_mem_writes hi hW),
    fun h1 h2 => hframe.snapreq fun hW => ?_, fun h1 h2 h3 => hframe.prescale fun hW => ?_,
    fun h1 h2 h3 => hframe.disp fun hW => ?_,
    fun hn => hframe.cfgCopy fun hW => hn (cfgCopy_mem_writes hi hW),
    fun hn => hframe.geom fun hW => hn (geom_mem_writes hi hW),
    fun hn => hframe.desc fun hW => hn (desc_mem_writes hi hW),
    fun hn => hframe.fault fun hW => hn (fault_mem_writes hi hW),
    fun hn => hframe.phase fun hW => hn (phase_mem_writes hi hW),
    fun hn => hframe.out fun hW => hn (out_mem_writes hi hW)⟩⟩
  · exact (cfg_mem_writes hi hW).elim hn
  · exact (snap_mem_writes hi hW).elim h1 h2
  · exact (interlace_mem_writes hi hW).elim h1 h2
  · exact (warned_mem_writes hi hW).elim h1 h2
  · exact (snapreq_mem_writes hi hW).elim h1 fun ⟨p, hp⟩ => h2 p hp
  · exact (prescale_mem_writes hi hW).elim h1 fun h => h.elim (fun ⟨y, x, hyx⟩ => h2 y x hyx)
      fun ⟨y, x, v, hyxv⟩ => h3 y x v hyxv
  · exact (disp_mem_writes hi hW).elim h1 fun h => h.elim h2 fun ⟨k, hk⟩ => h3 k hk

/-- Settles O52: what a step of a halted block can be, the RESET of it, and the closed port. -/
theorem haltedAcceptsOnlyReset : Obligations.HaltedAcceptsOnlyReset := by
  refine fun s hfault hphase => ⟨fun t => step_of_halted_tail hphase, fun hreset => ?_,
    fun henv hhost => ?_⟩
  · obtain ⟨r, hr⟩ := List.head?_eq_some_iff.mp hreset
    rw [step_of_reset hr]
    exact ⟨_, exec_reset _, rfl, rfl⟩
  · obtain ⟨a, r, hhost⟩ := List.exists_cons_of_ne_nil hhost
    simp only [step, envStep, henv, machineStep, if_pos hphase, hostStep, hhost]
    exact hostAction_refused a hfault

end Sys2Proof.Proofs
end

section
/-! The proofs of the two filters that the model takes at their default definitions
(41_filters.md R194, R197; log 14): in integers, without wrapping, and their neighbours. -/

namespace Sys2Proof.Machine

/-! ## The largest and the smallest of a list (R194) -/

theorem le_listMax {l : List Nat} {v : Nat} (h : v ∈ l) : v ≤ listMax l := by
  induction l with
  | nil => exact absurd h List.not_mem_nil
  | cons a l ih =>
    rw [listMax, List.foldr_cons]
    rcases List.mem_cons.mp h with rfl | h
    · exact le_max_left _ _
    · exact (ih h).trans (le_max_right _ _)

theorem listMax_mem {l : List Nat} (h : l ≠ []) : listMax l ∈ l := by
  induction l with
  | nil => exact absurd rfl h
  | cons a l ih =>
    rw [listMax, List.foldr_cons, ← listMax]
    rcases eq_or_ne l [] with rfl | hl
    · simp [listMax]
    · rcases max_choice a (listMax l) with heq | heq
      · rw [heq]
        exact List.mem_cons_self
      · rw [heq]
        exact List.mem_cons_of_mem _ (ih hl)

theorem listMin_le {l : List Nat} {v : Nat} (h : v ∈ l) : listMin l ≤ v := by
  induction l with
  | nil => exact absurd h List.not_mem_nil
  | cons a l ih =>
    rw [listMin, List.foldr_cons]
    rcases List.mem_cons.mp h with rfl | h
    · exact min_le_left _ _
    · exact (min_le_right _ _).trans (ih h)

/-- The smallest of a list of bytes is in it: the fold starts from the largest byte. -/
theorem listMin_mem {l : List Nat} (h : l ≠ []) (hbyte : ∀ v ∈ l, v ≤ 255) : listMin l ∈ l := by
  induction l with
  | nil => exact absurd rfl h
  | cons a l ih =>
    rw [listMin, List.foldr_cons, ← listMin]
    rcases eq_or_ne l [] with rfl | hl
    · simpa [listMin] using hbyte a List.mem_cons_self
    · rcases min_choice a (listMin l) with heq | heq
      · rw [heq]
        exact List.mem_cons_self
      · rw [heq]
        exact List.mem_cons_of_mem _ (ih hl fun v hv => hbyte v (List.mem_cons_of_mem _ hv))

/-- R194: where a value is larger than the centre's, the maximum less one occurrence of the
maximum exists, and the centre's value is not above it. -/
theorem secondLargest_spec {l : List Nat} {c v : Nat} (hc : c ∈ l) (hv : v ∈ l) (hlt : c < v) :
    SecondLargest l (secondLargest l) ∧ c ≤ secondLargest l := by
  have hmax := le_listMax hv
  have hrest : c ∈ l.erase (listMax l) := (List.mem_erase_of_ne (by omega)).mpr hc
  exact ⟨⟨listMax l, listMax_mem (List.ne_nil_of_mem hc), fun _ => le_listMax,
    listMax_mem (List.ne_nil_of_mem hrest), fun _ => le_listMax⟩, le_listMax hrest⟩

theorem secondSmallest_spec {l : List Nat} {c v : Nat} (hbyte : ∀ u ∈ l, u ≤ 255) (hc : c ∈ l)
    (hv : v ∈ l) (hlt : v < c) :
    SecondSmallest l (secondSmallest l) ∧ secondSmallest l ≤ c := by
  have hmin := listMin_le hv
  have hrest : c ∈ l.erase (listMin l) := (List.mem_erase_of_ne (by omega)).mpr hc
  exact ⟨⟨listMin l, listMin_mem (List.ne_nil_of_mem hc) hbyte, fun _ => listMin_le,
    listMin_mem (List.ne_nil_of_mem hrest) fun u hu => hbyte u (List.mem_of_mem_erase hu),
    fun _ => listMin_le⟩, listMin_le hrest⟩

/-- R194: `hi`, by whether a value is larger than the centre's. -/
theorem aaHigh_spec {l : List Nat} {c : Nat} (hc : c ∈ l) :
    ((∃ v ∈ l, c < v) → SecondLargest l (aaHigh c l)) ∧
    ((∀ v ∈ l, v ≤ c) → aaHigh c l = c) ∧ aaHigh c l ∈ l ∧ c ≤ aaHigh c l := by
  by_cases hlarger : ∃ v ∈ l, c < v
  · obtain ⟨v, hv, hlt⟩ := hlarger
    have heq : aaHigh c l = secondLargest l := if_pos (by simpa using ⟨v, hv, hlt⟩)
    obtain ⟨hsecond, hle⟩ := secondLargest_spec hc hv hlt
    obtain ⟨m, -, -, hmem, -⟩ := id hsecond
    rw [heq]
    exact ⟨fun _ => hsecond, fun hall => absurd (hall v hv) (by omega),
      List.mem_of_mem_erase hmem, hle⟩
  · have heq : aaHigh c l = c := if_neg (by simpa using hlarger)
    rw [heq]
    exact ⟨fun h => absurd h hlarger, fun _ => rfl, hc, le_rfl⟩

/-- R194: `lo`, by whether a value is smaller than the centre's. -/
theorem aaLow_spec {l : List Nat} {c : Nat} (hbyte : ∀ v ∈ l, v ≤ 255) (hc : c ∈ l) :
    ((∃ v ∈ l, v < c) → SecondSmallest l (aaLow c l)) ∧
    ((∀ v ∈ l, c ≤ v) → aaLow c l = c) ∧ aaLow c l ∈ l ∧ aaLow c l ≤ c := by
  by_cases hsmaller : ∃ v ∈ l, v < c
  · obtain ⟨v, hv, hlt⟩ := hsmaller
    have heq : aaLow c l = secondSmallest l := if_pos (by simpa using ⟨v, hv, hlt⟩)
    obtain ⟨hsecond, hle⟩ := secondSmallest_spec hbyte hc hv hlt
    obtain ⟨m, -, -, hmem, -⟩ := id hsecond
    rw [heq]
    exact ⟨fun _ => hsecond, fun hall => absurd (hall v hv) (by omega),
      List.mem_of_mem_erase hmem, hle⟩
  · have heq : aaLow c l = c := if_neg (by simpa using hsmaller)
    rw [heq]
    exact ⟨fun h => absurd h hsmaller, fun _ => rfl, hc, le_rfl⟩

/-! ## One channel of the anti-aliasing filter (R194) -/

/-- What a share below one adds of a difference, rounded, lies between nothing and all of it. -/
theorem roundedEighths_between (d k : Int) (hk0 : 0 ≤ k) (hk : k ≤ 7) :
    min d 0 ≤ (d * k + 4) / 8 ∧ (d * k + 4) / 8 ≤ max d 0 := by
  rcases le_total 0 d with hd | hd
  · have hlo : 0 ≤ d * k := mul_nonneg hd hk0
    have hhi : d * k ≤ d * 7 := mul_le_mul_of_nonneg_left hk hd
    omega
  · have hlo : d * 7 ≤ d * k := mul_le_mul_of_nonpos_left hk hd
    have hhi : d * k ≤ 0 := mul_nonpos_of_nonpos_of_nonneg hd hk0
    omega

/-- The values of a channel that R194 reads: the centre's and the full neighbours'. -/
def aaValues (c0 : Byte) (l : List Byte) : List Nat := c0.toNat :: l.map (·.toNat)

theorem aaValues_byte (c0 : Byte) (l : List Byte) : ∀ v ∈ aaValues c0 l, v ≤ 255 := by
  intro v hv
  obtain ⟨b, -, rfl⟩ := List.mem_map.mp (show v ∈ (c0 :: l).map (·.toNat) from hv)
  have := b.isLt
  omega

/-- R194: the channel in exact integers, between `lo` and `hi`. -/
theorem aaChannel_toNat (c0 : Byte) (l : List Byte) (cvg : BitVec 3) :
    let lo := aaLow c0.toNat (aaValues c0 l)
    let hi := aaHigh c0.toNat (aaValues c0 l)
    ((aaChannel c0 l cvg).toNat : Int)
      = c0.toNat + (((lo : Int) + hi - 2 * c0.toNat) * (7 - cvg.toNat) + 4) / 8 ∧
    lo ≤ (aaChannel c0 l cvg).toNat ∧ (aaChannel c0 l cvg).toNat ≤ hi := by
  intro lo hi
  obtain ⟨-, -, -, hlo⟩ := aaLow_spec (aaValues_byte c0 l) List.mem_cons_self
  obtain ⟨-, -, hmem, hhi⟩ := aaHigh_spec (l := aaValues c0 l) List.mem_cons_self
  have hbyte := aaValues_byte c0 l _ hmem
  have hcvg := cvg.isLt
  obtain ⟨hmin, hmax⟩ := roundedEighths_between ((lo : Int) + hi - 2 * c0.toNat) (7 - cvg.toNat)
    (by omega) (by omega)
  have hbot : 0 ≤ (c0.toNat : Int)
      + (((lo : Int) + hi - 2 * c0.toNat) * (7 - cvg.toNat) + 4) / 8 := by omega
  have htop : (c0.toNat : Int)
      + (((lo : Int) + hi - 2 * c0.toNat) * (7 - cvg.toNat) + 4) / 8 < 256 := by omega
  have hexact : ((aaChannel c0 l cvg).toNat : Int)
      = c0.toNat + (((lo : Int) + hi - 2 * c0.toNat) * (7 - cvg.toNat) + 4) / 8 :=
    toNat_ofInt_byte hbot htop
  exact ⟨hexact, by omega, by omega⟩

/-- R194: a channel of the filter is what the rule makes of the values. -/
theorem aaChannel_makes (c0 : Byte) (l : List Byte) (cvg : BitVec 3) :
    AaMakes c0 l cvg (aaChannel c0 l cvg) := by
  obtain ⟨hlow, hlowEq, -⟩ := aaLow_spec (aaValues_byte c0 l) List.mem_cons_self
  obtain ⟨hhigh, hhighEq, -⟩ := aaHigh_spec (l := aaValues c0 l) List.mem_cons_self
  exact ⟨_, _, hhigh, hhighEq, hlow, hlowEq, (aaChannel_toNat c0 l cvg).1⟩

/-- A value of a channel is a byte of the centre or of a full neighbour. -/
theorem exists_of_mem_aaValues {c0 : Byte} {l : List Byte} {v : Nat} (h : v ∈ aaValues c0 l) :
    ∃ b ∈ c0 :: l, b.toNat = v :=
  List.mem_map.mp (show v ∈ (c0 :: l).map (·.toNat) from h)

/-- R194: a channel lies between values it read. -/
theorem aaChannel_between (c0 : Byte) (l : List Byte) (cvg : BitVec 3) :
    (∃ lo ∈ c0 :: l, lo ≤ aaChannel c0 l cvg) ∧ (∃ hi ∈ c0 :: l, aaChannel c0 l cvg ≤ hi) := by
  obtain ⟨-, hlo, hhi⟩ := aaChannel_toNat c0 l cvg
  obtain ⟨-, -, hlow, -⟩ := aaLow_spec (aaValues_byte c0 l) List.mem_cons_self
  obtain ⟨-, -, hhigh, -⟩ := aaHigh_spec (l := aaValues c0 l) List.mem_cons_self
  obtain ⟨a, ha, heqa⟩ := exists_of_mem_aaValues hlow
  obtain ⟨b, hb, heqb⟩ := exists_of_mem_aaValues hhigh
  exact ⟨⟨a, ha, BitVec.le_def.mpr (heqa ▸ hlo)⟩, ⟨b, hb, BitVec.le_def.mpr (heqb ▸ hhi)⟩⟩

/-- R194: without a full neighbour a channel is the centre's. -/
theorem aaChannel_nil (c0 : Byte) (cvg : BitVec 3) : aaChannel c0 [] cvg = c0 := by
  obtain ⟨⟨a, ha, hlo⟩, ⟨b, hb, hhi⟩⟩ := aaChannel_between c0 [] cvg
  rw [List.mem_singleton.mp ha] at hlo
  rw [List.mem_singleton.mp hb] at hhi
  exact BitVec.le_antisymm hhi hlo

/-! ## The neighbours of the anti-aliasing filter (R194, R195) -/

/-- The index of a neighbour: the base, the pixel's offset and the neighbour's are summed. -/
theorem memIndex_add (base num off : Int) :
    memIndex base (num + off) = BitVec.ofInt 32 (base + num + off) := by
  rw [memIndex, Int.add_assoc]

/-- R134: a 16-bit pixel is full where its three coverage bits are set. -/
theorem cvg16_full (pix : Half) (aux : Byte) :
    cvg16 pix aux = 7#3 ↔ pix.toNat % 2 = 1 ∧ aux.toNat % 4 = 3 := by
  rw [← BitVec.toNat_inj, cvg16_toNat, BitVec.toNat_ofNat]
  omega

theorem cvg32_full (pix : Word) : cvg32 pix = 7#3 ↔ pix.toNat / 32 % 8 = 7 := by
  rw [← BitVec.toNat_inj, cvg32_toNat, BitVec.toNat_ofNat]

theorem aaNeighbour16_eq (s : State) (num off : Int) : aaNeighbour16 s num off =
    let p := memReadPair16 s (BitVec.ofInt 32 ((s.geom.origin.toNat / 2 : Nat) + num + off))
    if p.1.toNat % 2 = 1 ∧ p.2.toNat % 4 = 3 then
      some ⟨BitVec.ofNat 8 (8 * (p.1.toNat / 2048)), BitVec.ofNat 8 (8 * (p.1.toNat / 64 % 32)),
        BitVec.ofNat 8 (8 * (p.1.toNat / 2 % 32))⟩
    else none := by
  rw [aaNeighbour16, memIndex_add]
  exact if_congr (cvg16_full _ _) (congrArg some (rgb16_eq _)) rfl

theorem aaNeighbour32_eq (s : State) (num off : Int) : aaNeighbour32 s num off =
    let p := memRead32 s (BitVec.ofInt 32 ((s.geom.origin.toNat / 4 : Nat) + num + off))
    if p.toNat / 32 % 8 = 7 then
      some ⟨BitVec.ofNat 8 (p.toNat / 2 ^ 24), BitVec.ofNat 8 (p.toNat / 2 ^ 16),
        BitVec.ofNat 8 (p.toNat / 2 ^ 8)⟩
    else none := by
  rw [aaNeighbour32, memIndex_add]
  exact if_congr (cvg32_full _) (congrArg some (rgb32_eq _)) rfl

/-- R194: the three channels, each by itself. -/
theorem aaColour_makes (c : RGB) (l : List RGB) (cvg : BitVec 3) :
    AaMakes c.r (l.map (·.r)) cvg (aaColour c l cvg).r ∧
    AaMakes c.g (l.map (·.g)) cvg (aaColour c l cvg).g ∧
    AaMakes c.b (l.map (·.b)) cvg (aaColour c l cvg).b :=
  ⟨aaChannel_makes _ _ _, aaChannel_makes _ _ _, aaChannel_makes _ _ _⟩

/-! ## The restore filter (R197, R198) -/

/-- R197: a channel whose five bits are all set has no neighbour above it, and one whose five bits
are all clear none below, so that the byte does not wrap. -/
theorem restoreChannel_toNat (c0 : Byte) {l : List (BitVec 5)} (h : l.length ≤ 8) :
    ((restoreChannel c0 l).toNat : Int) = c0.toNat
      + (l.countP fun v => c0.toNat / 8 < v.toNat : Nat)
      - (l.countP fun v => v.toNat < c0.toNat / 8 : Nat) := by
  have hc := c0.isLt
  have hfive : (c0.extractLsb' 3 5).toNat = c0.toNat / 8 := by
    rw [toNat_extractLsb'_div]
    omega
  have habove : l.countP (fun v => c0.toNat / 8 < v.toNat) ≤ 8 := List.countP_le_length.trans h
  have hbelow : l.countP (fun v => v.toNat < c0.toNat / 8) ≤ 8 := List.countP_le_length.trans h
  have hnone_above : c0.toNat / 8 = 31 → l.countP (fun v => c0.toNat / 8 < v.toNat) = 0 := by
    intro htop
    refine List.countP_eq_zero.mpr fun v _ => ?_
    have := v.isLt
    simp only [decide_eq_true_eq]
    omega
  have hnone_below : c0.toNat / 8 = 0 → l.countP (fun v => v.toNat < c0.toNat / 8) = 0 := by
    intro hbottom
    refine List.countP_eq_zero.mpr fun v _ => ?_
    simp only [decide_eq_true_eq]
    omega
  simp only [restoreChannel, BitVec.lt_def, hfive]
  exact toNat_ofInt_byte (by omega) (by omega)

/-- R197: the neighbours counted by their offsets. -/
theorem restoreChannel_map (c0 : Byte) {offsets : List Int} (h : offsets.length ≤ 8)
    (f : Int → BitVec 5) (five : Int → Nat) (hfive : ∀ off, (f off).toNat = five off) :
    ((restoreChannel c0 (offsets.map f)).toNat : Int) = c0.toNat
      + (offsets.countP fun off => c0.toNat / 8 < five off : Nat)
      - (offsets.countP fun off => five off < c0.toNat / 8 : Nat) := by
  rw [restoreChannel_toNat c0 (by rwa [List.length_map]), List.countP_map, List.countP_map]
  simp only [Function.comp_def, hfive]

/-- R196: a channel moves by no more than the number of neighbours. -/
theorem restoreChannel_near (c0 : Byte) {l : List (BitVec 5)} (h : l.length ≤ 8) :
    (restoreChannel c0 l).toNat ≤ c0.toNat + 8 ∧ c0.toNat ≤ (restoreChannel c0 l).toNat + 8 := by
  have hexact := restoreChannel_toNat c0 h
  have habove : l.countP (fun v => c0.toNat / 8 < v.toNat) ≤ 8 := List.countP_le_length.trans h
  have hbelow : l.countP (fun v => v.toNat < c0.toNat / 8) ≤ 8 := List.countP_le_length.trans h
  omega

/-- The five bits that R197 takes of a neighbour in either format. -/
def restoreTaps (s : State) (fmt : Fmt) (num off : Int) : BitVec 5 × BitVec 5 × BitVec 5 :=
  match fmt with
  | .bits16 => chan5Of16 (memRead16 s (memIndex (base16 s.geom.origin) (num + off)))
  | .bits32 => chan5Of32 (memRead32 s (memIndex (base32 s.geom.origin) (num + off)))

theorem restoreFilter_eq (s : State) (fmt : Fmt) (c : RGB) (num : Int) :
    restoreFilter s fmt c num
      = ⟨restoreChannel c.r ((restoreOffsets s.geom.width).map fun off =>
          (restoreTaps s fmt num off).1),
        restoreChannel c.g ((restoreOffsets s.geom.width).map fun off =>
          (restoreTaps s fmt num off).2.1),
        restoreChannel c.b ((restoreOffsets s.geom.width).map fun off =>
          (restoreTaps s fmt num off).2.2)⟩ := by
  cases fmt <;> simp only [restoreFilter, restoreColour, List.map_map] <;> rfl

/-- R197: the five bits of a 16-bit neighbour's channels. -/
theorem restoreTaps_bits16 (s : State) (num off : Int) :
    let p := (memRead16 s
      (BitVec.ofInt 32 ((s.geom.origin.toNat / 2 : Nat) + num + off))).toNat
    (restoreTaps s .bits16 num off).1.toNat = p / 2048 ∧
    (restoreTaps s .bits16 num off).2.1.toNat = p / 64 % 32 ∧
    (restoreTaps s .bits16 num off).2.2.toNat = p / 2 % 32 := by
  intro p
  have hp : p < 65536 := (memRead16 s _).isLt
  simp only [restoreTaps, chan5Of16, memIndex_add, toNat_extractLsb'_div]
  refine ⟨(?_ : p / 2 ^ 11 % 2 ^ 5 = p / 2048), rfl, rfl⟩
  omega

/-- R198: the five bits of a 32-bit neighbour's channels. -/
theorem restoreTaps_bits32 (s : State) (num off : Int) :
    let p := (memRead32 s
      (BitVec.ofInt 32 ((s.geom.origin.toNat / 4 : Nat) + num + off))).toNat
    (restoreTaps s .bits32 num off).1.toNat = p / 2 ^ 27 ∧
    (restoreTaps s .bits32 num off).2.1.toNat = p / 2 ^ 19 % 32 ∧
    (restoreTaps s .bits32 num off).2.2.toNat = p / 2 ^ 11 % 32 := by
  intro p
  have hp : p < 4294967296 := (memRead32 s _).isLt
  simp only [restoreTaps, chan5Of32, memIndex_add, toNat_extractLsb'_div]
  refine ⟨(?_ : p / 2 ^ 27 % 2 ^ 5 = p / 2 ^ 27), rfl, rfl⟩
  omega

end Sys2Proof.Machine

namespace Sys2Proof.Proofs

open Sys2Proof.Machine

/-- Settles O8: a channel by its `lo` and `hi`, and both formats' neighbours by their numbers. -/
theorem antiAliasingStaysInRange : Obligations.AntiAliasingStaysInRange := by
  refine ⟨aaChannel_makes, fun s c num cvg => ?_, aaChannel_between, aaChannel_nil, by decide⟩
  intro w offsets full16 full32 d16 d32
  have h16 : aaColour c full16 cvg = d16 := by
    rw [show full16 = offsets.filterMap (aaNeighbour16 s num) from
      List.filterMap_congr fun off _ => (aaNeighbour16_eq s num off).symm]
    rfl
  have h32 : aaColour c full32 cvg = d32 := by
    rw [show full32 = offsets.filterMap (aaNeighbour32 s num) from
      List.filterMap_congr fun off _ => (aaNeighbour32_eq s num off).symm]
    rfl
  obtain ⟨hr16, hg16, hb16⟩ := h16 ▸ aaColour_makes c full16 cvg
  obtain ⟨hr32, hg32, hb32⟩ := h32 ▸ aaColour_makes c full32 cvg
  exact ⟨hr16, hg16, hb16, hr32, hg32, hb32⟩

/-- Settles O9: a channel in integers, and the eight neighbours of both formats by their numbers. -/
theorem restoreCountsNeighbours : Obligations.RestoreCountsNeighbours := by
  refine ⟨fun c0 l => restoreChannel_toNat c0, fun s c num => ?_, fun s fmt c num => ?_⟩
  · intro w offsets p16 p32 counts d16 d32
    have hlen : offsets.length ≤ 8 := le_rfl
    have h16 := restoreTaps_bits16 s num
    have h32 := restoreTaps_bits32 s num
    simp only [counts, d16, d32, restoreFilter_eq]
    exact ⟨restoreChannel_map _ hlen _ _ fun off => (h16 off).1,
      restoreChannel_map _ hlen _ _ fun off => (h16 off).2.1,
      restoreChannel_map _ hlen _ _ fun off => (h16 off).2.2,
      restoreChannel_map _ hlen _ _ fun off => (h32 off).1,
      restoreChannel_map _ hlen _ _ fun off => (h32 off).2.1,
      restoreChannel_map _ hlen _ _ fun off => (h32 off).2.2⟩
  · have hlen {α : Type} (f : Int → α) : ((restoreOffsets s.geom.width).map f).length ≤ 8 := le_rfl
    rw [restoreFilter_eq]
    obtain ⟨hr, hr'⟩ := restoreChannel_near c.r (hlen _)
    obtain ⟨hg, hg'⟩ := restoreChannel_near c.g (hlen _)
    obtain ⟨hb, hb'⟩ := restoreChannel_near c.b (hlen _)
    exact ⟨hr, hr', hg, hg', hb, hb'⟩

end Sys2Proof.Proofs
end

section
/-! The proof of the memory statement (20_memory.md, 30_encoding.md R144, R145): what the host's
writes of memory, of the register file and of the depth origin change, and what a script fixes. -/

namespace Sys2Proof.Machine

/-! ## Bytes, halfwords and words (R81) -/

theorem bytes_append_assoc (a b c d : Byte) : a ++ b ++ c ++ d = (a ++ b) ++ (c ++ d) := by
  rw [BitVec.append_assoc]
  rfl

theorem half_of_bytes (v : Half) : v.extractLsb' 8 8 ++ v.extractLsb' 0 8 = v :=
  (BitVec.extractLsb'_append_extractLsb'_eq_extractLsb' rfl).trans BitVec.extractLsb'_eq_self

theorem word_of_halves (v : Word) : v.extractLsb' 16 16 ++ v.extractLsb' 0 16 = v :=
  (BitVec.extractLsb'_append_extractLsb'_eq_extractLsb' rfl).trans BitVec.extractLsb'_eq_self

/-- The halfword of a memory at an index within the limit. -/
def halfAt (m : Memory) (i : Nat) : Half := sparseGet m (2 * i) ++ sparseGet m (2 * i + 1)

theorem memRead16_inside {s : State} {i : Word} (h : 2 * i.toNat + 1 < s.memLimit) :
    memRead16 s i = halfAt s.mem i.toNat := if_pos h

theorem memRead32_inside {s : State} {j : Word} (h : 4 * j.toNat + 3 < s.memLimit) :
    memRead32 s j = halfAt s.mem (2 * j.toNat) ++ halfAt s.mem (2 * j.toNat + 1) := by
  rw [memRead32, if_pos h, bytes_append_assoc, halfAt, halfAt,
    show 2 * (2 * j.toNat) = 4 * j.toNat by omega,
    show 2 * (2 * j.toNat + 1) = 4 * j.toNat + 2 by omega]

/-! ## A read after a write -/

theorem halfAt_writeHalf {m : Memory} (i : Nat) (v : Half) (k : Nat) (h : Memory.wf m = true) :
    halfAt (writeHalf m i v) k = if k = i then v else halfAt m k := by
  unfold halfAt
  rw [sparseGet_writeHalf _ _ _ h, sparseGet_writeHalf _ _ _ h]
  by_cases hk : k = i
  · subst hk
    simp [half_of_bytes]
  · rw [if_neg (by omega), if_neg (by omega), if_neg (by omega), if_neg (by omega), if_neg hk]

theorem halfAt_writeWord {m : Memory} (j : Nat) (v : Word) (k : Nat) (h : Memory.wf m = true) :
    halfAt (writeWord m j v) k = if k = 2 * j + 1 then v.extractLsb' 0 16
      else if k = 2 * j then v.extractLsb' 16 16 else halfAt m k := by
  rw [writeWord, halfAt_writeHalf _ _ _ (writeHalf_wf _ _ h), halfAt_writeHalf _ _ _ h]

/-- Two states that agree on the limit and on a halfword read it alike. -/
theorem memRead16_congr {s t : State} {k : Word} (hlimit : t.memLimit = s.memLimit)
    (hhalf : halfAt t.mem k.toNat = halfAt s.mem k.toNat) : memRead16 t k = memRead16 s k := by
  by_cases h : 2 * k.toNat + 1 < s.memLimit
  · rw [memRead16_inside h, memRead16_inside (hlimit ▸ h), hhalf]
  · rw [memRead16, if_neg (hlimit ▸ h), memRead16, if_neg h]

theorem memRead32_congr {s t : State} {k : Word} (hlimit : t.memLimit = s.memLimit)
    (hhigh : halfAt t.mem (2 * k.toNat) = halfAt s.mem (2 * k.toNat))
    (hlow : halfAt t.mem (2 * k.toNat + 1) = halfAt s.mem (2 * k.toNat + 1)) :
    memRead32 t k = memRead32 s k := by
  by_cases h : 4 * k.toNat + 3 < s.memLimit
  · rw [memRead32_inside h, memRead32_inside (hlimit ▸ h), hhigh, hlow]
  · rw [memRead32, if_neg (hlimit ▸ h), memRead32, if_neg h]

section Writes

variable {s : State} {i : Word}

theorem memRead16_withMem_writeHalf (v : Half) (hmem : Memory.wf s.mem = true)
    (hi : 2 * i.toNat + 1 < s.memLimit) :
    memRead16 (s.withMem (writeHalf s.mem i.toNat v)) i = v ∧
    ∀ k, k ≠ i → memRead16 (s.withMem (writeHalf s.mem i.toNat v)) k = memRead16 s k := by
  constructor
  · have hread := memRead16_inside (s := s.withMem (writeHalf s.mem i.toNat v)) hi
    exact hread.trans ((halfAt_writeHalf _ _ _ hmem).trans (if_pos rfl))
  · intro k hk
    exact memRead16_congr rfl
      ((halfAt_writeHalf _ _ _ hmem).trans (if_neg fun h => hk (BitVec.eq_of_toNat_eq h)))

theorem memRead32_withMem_writeWord (v : Word) (hmem : Memory.wf s.mem = true)
    (hi : 4 * i.toNat + 3 < s.memLimit) :
    memRead32 (s.withMem (writeWord s.mem i.toNat v)) i = v ∧
    ∀ k, k ≠ i → memRead32 (s.withMem (writeWord s.mem i.toNat v)) k = memRead32 s k := by
  constructor
  · rw [memRead32_inside (s := s.withMem (writeWord s.mem i.toNat v)) hi, State.withMem_mem,
      halfAt_writeWord _ _ _ hmem, halfAt_writeWord _ _ _ hmem, if_neg (by omega), if_pos rfl,
      if_pos rfl, word_of_halves]
  · intro k hk
    have hne : k.toNat ≠ i.toNat := fun h => hk (BitVec.eq_of_toNat_eq h)
    refine memRead32_congr rfl ?_ ?_
    · rw [State.withMem_mem, halfAt_writeWord _ _ _ hmem, if_neg (by omega), if_neg (by omega)]
    · rw [State.withMem_mem, halfAt_writeWord _ _ _ hmem, if_neg (by omega), if_neg (by omega)]

theorem memReadPair16_withAux (v : Byte) (haux : Memory.wf s.aux = true)
    (hi : 2 * i.toNat + 1 < s.memLimit) :
    memReadPair16 (s.withAux (sparseSet s.aux i.toNat v)) i = (memRead16 s i, v) ∧
    ∀ k, k ≠ i →
      memReadPair16 (s.withAux (sparseSet s.aux i.toNat v)) k = memReadPair16 s k := by
  constructor
  · have hbyte := sparseGet_sparseSet_same i.toNat v haux
    exact Prod.ext rfl ((if_pos hi).trans hbyte)
  · intro k hk
    have hne : k.toNat ≠ i.toNat := fun h => hk (BitVec.eq_of_toNat_eq h)
    have hbyte := sparseGet_sparseSet_other v haux hne
    exact Prod.ext rfl (if_congr Iff.rfl hbyte rfl)

end Writes

/-! ## The register file -/

/-- A register after a write of one. -/
theorem get_set (r : Regs) (n : RegName) (v : Word) (k : RegName) :
    (r.set n v).get k = if k = n then v else r.get k := by
  cases n <;> cases k <;> rfl

/-! ## The host's writes and the script (R144, R145) -/

theorem hostWrite_open {s : State} (h : HostMay s) (t : State) : hostWrite s t = .next t :=
  hostPort_open h.1 h.2

theorem withScript_of_no_noise (s : State) {l : List ScriptLine} (h : ∀ g, .noise g ∉ l) :
    s.withScript l = s.withHost (scriptActions s.cfg l) := by
  rw [State.withScript, scriptNoise_none h, Option.none_or, State.withNoise_self]

theorem withScript_of_noise (s : State) {l : List ScriptLine} (f : NoiseFn)
    (r : List ScriptLine) (h : ∀ g, .noise g ∉ l) :
    s.withScript (l ++ .noise f :: r)
      = (s.withNoise (some f)).withHost (scriptActions s.cfg (l ++ r)) := by
  rw [State.withScript, scriptNoise_append l r f h, Option.some_or, scriptActions_noise]

end Sys2Proof.Machine

namespace Sys2Proof.Proofs

open Sys2Proof.Machine

/-- Settles O6: each write by its read-after-write rule, and a script by its first `.noise`. -/
theorem hostWritesReadBack : Obligations.HostWritesReadBack := by
  refine ⟨fun s j i0 i1 h0 h1 hj => ?_, fun s i hmay hmem haux hi => ⟨fun v => ?_, fun v => ?_,
    fun hi32 v => ?_⟩, fun s hmay => ⟨fun n v => ?_, fun v => hostWrite_open hmay _⟩,
    fun s l hl => ⟨withScript_of_no_noise s hl, fun f rest => ?_⟩⟩
  · rw [memRead32_inside hj, memRead16_inside (by omega), memRead16_inside (by omega), h0, h1]
  · exact ⟨_, hostWrite_open hmay _, rfl, memRead16_withMem_writeHalf v hmem hi⟩
  · exact ⟨_, hostWrite_open hmay _, rfl, memReadPair16_withAux v haux hi⟩
  · exact ⟨_, hostWrite_open hmay _, rfl, memRead32_withMem_writeWord v hmem hi32⟩
  · exact ⟨_, hostWrite_open hmay _, rfl, (get_set _ _ _ _).trans (if_pos rfl),
      fun k hk => (get_set _ _ _ _).trans (if_neg hk)⟩
  · intro t
    have ht : t = (s.withNoise (some f)).withHost (scriptActions s.cfg (l ++ rest)) :=
      withScript_of_noise s f rest hl
    have hnoise : t.noise = some f := by rw [ht]; rfl
    refine ⟨by rw [hnoise]; exact ht, fun a b c y x hf => ?_, fun y0 x0 v r hf => ⟨?_, ?_⟩⟩
    · rw [ditherNoise_fixed hnoise, hf, noiseFnAt_affine, BitVec.toNat_ofNat]
    · rw [ditherNoise_fixed hnoise, hf, noiseFnAt_point_self]
    · intro y x hne
      rw [ditherNoise_fixed hnoise, hf, noiseFnAt_point_ne v r hne]
      rfl

end Sys2Proof.Proofs
end

section
/-! The proofs of the resolver's remaining statements (42_resolver.md): the control step, the field
state machine, the machine's steps through R250, and the bounds of an accepted frame. -/

namespace Sys2Proof.Machine

/-! ## The field state machine (R236 to R242) -/

theorem resolveField_of_interlaced {s : State} (hdata : s.geom.hasData = true)
    (hserrate : s.ctrl.serrate = true) : resolveField s = fieldInterlaced s :=
  if_pos ((Bool.and_eq_true _ _).mpr ⟨hdata, hserrate⟩)

theorem resolveField_of_progressive {s : State}
    (h : ¬(s.geom.hasData = true ∧ s.ctrl.serrate = true)) :
    resolveField s = fieldProgressive s :=
  if_neg fun hvalid => h ((Bool.and_eq_true _ _).mp hvalid)

section Fields

variable (is : Interlace) (parity : Bool) {v : BitVec 10}

theorem fieldOf_hardware (v : BitVec 10) : fieldOf is .hardware parity v = (parity ^^ true) :=
  (Bool.xor_true parity).symm

theorem fieldOf_software_same (h : v = is.oldVStart) :
    fieldOf is .software parity v = (is.oldLowerfield ^^ true) :=
  (if_pos h).trans (Bool.xor_true _).symm

theorem fieldOf_software_moved (h : v ≠ is.oldVStart) :
    fieldOf is .software parity v = true ↔ v.toNat < is.oldVStart.toNat := by
  rw [fieldOf, if_neg h, decide_eq_true_iff, BitVec.lt_def]

end Fields

/-! ## The resolver's operations as flows (R250) -/

/-- A flow with what is left to run replaced, where it goes on; a skip and a fatal error leave
nothing to run. -/
def Flow.reseq (l : List SeqOp) : Flow → Flow
  | .go s => .go (s.withSeq l)
  | .ended s => .ended s

/-- `f` is the resolver step that `i` runs: it does not look at what is left to run, it keeps the
engine's turn where it goes on, and where it does not the update has ended. -/
structure ResolverStep (i : Instr) (f : State → Flow) : Prop where
  exec : ∀ s, exec i s = .next (f s).state
  reseq : ∀ s l, f (s.withSeq l) = (f s).reseq l
  turn : ∀ {s t}, f s = .go t → EngineTurn s → EngineTurn t
  ended : ∀ {s t}, f s = .ended t → (t.phase = .idle ∨ t.phase = .halted) ∧ t.seq = []

/-- A step that goes on leaves what is left to run. -/
theorem ResolverStep.seq_of_go {i : Instr} {f : State → Flow} (h : ResolverStep i f) {s t : State}
    (hgo : f s = .go t) : t.seq = s.seq := by
  have hself := h.reseq s s.seq
  rw [State.withSeq_self, hgo] at hself
  rw [Flow.go.inj hself, State.withSeq_seq]

/-- The steps in their order, up to the first that ends the update. -/
def runFlows : List (State → Flow) → State → Flow
  | [], s => .go s
  | f :: fs, s => (f s).bind (runFlows fs)

/-- An operation that always goes on, by the record it computes. -/
theorem ResolverStep.of_next {i : Instr} {f : State → State}
    (hexec : ∀ s, Machine.exec i s = .next (f s))
    (hreseq : ∀ s l, f (s.withSeq l) = (f s).withSeq l)
    (hturn : ∀ s, (f s).env = s.env ∧ (f s).phase = s.phase ∧ (f s).disp = s.disp) :
    ResolverStep i fun s => .go (f s) where
  exec := hexec
  reseq s l := congrArg Flow.go (hreseq s l)
  turn := by
    rintro s t hgo ⟨henv, hphase, hdisp⟩
    obtain rfl := Flow.go.inj hgo
    obtain ⟨h1, h2, h3⟩ := hturn s
    exact ⟨h1 ▸ henv, h2 ▸ hphase, h3 ▸ hdisp⟩
  ended h := nomatch h

theorem resolverStep_resCtrl : ResolverStep .resCtrl resolveCtrl where
  exec _ := rfl
  reseq s l := by
    rw [resolveCtrl_eq, resolveCtrl_eq]
    rfl
  turn := by
    intro s t hgo hturn
    rw [resolveCtrl_eq] at hgo
    obtain rfl := Flow.go.inj hgo
    exact hturn
  ended h := by
    rw [resolveCtrl_eq] at h
    cases h

theorem resolverStep_resField : ResolverStep .resField fun s => .go (resolveField s) := by
  refine .of_next (fun _ => rfl) (fun s l => ?_) fun s => ?_
  · by_cases h : s.geom.hasData = true ∧ s.ctrl.serrate = true
    · rw [resolveField_of_interlaced h.1 h.2, resolveField_of_interlaced (s := s.withSeq l) h.1 h.2]
      rfl
    · rw [resolveField_of_progressive h, resolveField_of_progressive (s := s.withSeq l) h]
      rfl
  · by_cases h : s.geom.hasData = true ∧ s.ctrl.serrate = true
    · rw [resolveField_of_interlaced h.1 h.2]
      exact ⟨rfl, rfl, rfl⟩
    · rw [resolveField_of_progressive h]
      exact ⟨rfl, rfl, rfl⟩

theorem resolverStep_resVactive : ResolverStep .resVactive resolveVactive where
  exec _ := rfl
  reseq s l := by
    rcases resolveVactive_cases s with ⟨hbig, heq⟩ | ⟨hnonpos, heq⟩ | ⟨hlo, hhi, heq⟩
    · rw [heq, resolveVactive_of_tooBig (s := s.withSeq l) hbig]
      rfl
    · rw [heq, resolveVactive_of_nonpos (s := s.withSeq l) hnonpos]
      rfl
    · rw [heq, resolveVactive_of_fits (s := s.withSeq l) hlo hhi]
      rfl
  turn := by
    intro s t hgo hturn
    rcases resolveVactive_cases s with ⟨-, heq⟩ | ⟨-, heq⟩ | ⟨-, -, heq⟩
    · cases heq.symm.trans hgo
    · cases heq.symm.trans hgo
    · obtain rfl := Flow.go.inj (heq.symm.trans hgo)
      exact hturn
  ended := by
    intro s t h
    rcases resolveVactive_cases s with ⟨-, heq⟩ | ⟨-, heq⟩ | ⟨-, -, heq⟩
    · obtain rfl := Flow.ended.inj (heq.symm.trans h)
      exact ⟨.inr rfl, rfl⟩
    · obtain rfl := Flow.ended.inj (heq.symm.trans h)
      exact ⟨.inl rfl, rfl⟩
    · cases heq.symm.trans h

theorem resolverStep_resSkip : ResolverStep .resSkip resolveSkip where
  exec _ := rfl
  reseq s l := by
    by_cases hblank : s.ctrl.serrate = false ∧ s.geom.hasData = false
    · rw [resolveSkip_of_blank hblank, resolveSkip_of_blank (s := s.withSeq l) hblank]
      rfl
    by_cases hempty : s.geom.hres ≤ 0 ∨ s.geom.vres ≤ 0
    · rw [resolveSkip_of_empty hblank hempty,
        resolveSkip_of_empty (s := s.withSeq l) hblank hempty]
      rfl
    by_cases hnull : s.geom.origin = 0
    · rw [resolveSkip_of_nullOrigin hblank hempty hnull,
        resolveSkip_of_nullOrigin (s := s.withSeq l) hblank hempty hnull]
      rfl
    · rw [resolveSkip_of_passes hblank hempty hnull,
        resolveSkip_of_passes (s := s.withSeq l) hblank hempty hnull]
      rfl
  turn := by
    intro s t hgo hturn
    rcases resolveSkip_cases s with ⟨c, heq⟩ | ⟨-, -, -, -, heq⟩
    · cases heq.symm.trans hgo
    · obtain rfl := Flow.go.inj (heq.symm.trans hgo)
      exact hturn
  ended := by
    intro s t h
    rcases resolveSkip_cases s with ⟨c, heq⟩ | ⟨-, -, -, -, heq⟩
    · obtain rfl := Flow.ended.inj (heq.symm.trans h)
      exact ⟨.inl rfl, rfl⟩
    · cases heq.symm.trans h

theorem resolverStep_resFit : ResolverStep .resFit resolveFit where
  exec _ := rfl
  reseq s l := by
    by_cases htall : s.ctrl.serrate = true ∧ 625 < 2 * (s.geom.vStart + s.geom.vres)
    · rw [resolveFit_of_tooTall htall, resolveFit_of_tooTall (s := s.withSeq l) htall]
      rfl
    · rw [resolveFit_of_not_tooTall htall, resolveFit_of_not_tooTall (s := s.withSeq l) htall]
      rfl
  turn := by
    intro s t hgo hturn
    rcases resolveFit_cases s with heq | ⟨-, heq⟩
    · cases heq.symm.trans hgo
    · obtain rfl := Flow.go.inj (heq.symm.trans hgo)
      exact hturn
  ended := by
    intro s t h
    rcases resolveFit_cases s with heq | ⟨-, heq⟩
    · obtain rfl := Flow.ended.inj (heq.symm.trans h)
      exact ⟨.inr rfl, rfl⟩
    · cases heq.symm.trans h

/-- R250: the fourteen operations in their order, each with the step it runs. -/
def resolverSteps : List (Instr × (State → Flow)) :=
  [(.resSnap, fun s => .go (takeSnapshot s)), (.resExtent, fun s => .go (resolveExtent s)),
    (.resCtrl, resolveCtrl), (.resTv, fun s => .go (resolveTv s)),
    (.resHporch, fun s => .go (resolveHporch s)), (.resHclamp0, fun s => .go (resolveHclamp0 s)),
    (.resField, fun s => .go (resolveField s)), (.resVporch, fun s => .go (resolveVporch s)),
    (.resCanvas, fun s => .go (resolveCanvas s)), (.resVactive, resolveVactive),
    (.resBorder, fun s => .go (resolveBorder s)), (.resSkip, resolveSkip),
    (.resPtr, fun s => .go (resolvePtr s)), (.resFit, resolveFit)]

theorem resolverSteps_spec : ∀ p ∈ resolverSteps, ResolverStep p.1 p.2 := by
  simp only [resolverSteps, List.forall_mem_cons]
  refine ⟨?_, ?_, resolverStep_resCtrl, ?_, ?_, ?_, resolverStep_resField, ?_, ?_,
    resolverStep_resVactive, ?_, resolverStep_resSkip, ?_, resolverStep_resFit,
    fun _ h => absurd h List.not_mem_nil⟩
  all_goals exact .of_next (fun _ => rfl) (fun _ _ => rfl) fun _ => ⟨rfl, rfl, rfl⟩

theorem Flow.bind_go_right (o : Flow) : o.bind .go = o := by cases o <;> rfl

/-- R250: the frame's resolution is the list of its steps run in order. -/
theorem resolveFrame_eq_runFlows (s : State) :
    resolveFrame s = runFlows (resolverSteps.map (·.2)) s := by
  simp only [resolverSteps, List.map_cons, List.map_nil, runFlows, Flow.bind_go, Flow.bind_go_right]
  rfl

/-! ## The machine's steps through a list of flows -/

/-- Where it is the engine's turn, the step is its next issued operation. -/
theorem step_of_seq {s : State} (h : EngineTurn s) {op : SeqOp} {r : List SeqOp}
    (hseq : s.seq = op :: r) : step s = runOp op (s.withSeq r) := by
  obtain ⟨henv, hphase, hdisp⟩ := h
  simp only [step, envStep, henv, machineStep, if_neg hphase, if_neg hdisp, hseq]

theorem stepMany_succ {s u : State} (h : step s = .next u) (n : Nat) :
    stepMany (n + 1) s = stepMany n u := by
  rw [stepMany, h]

/-- R250: the machine steps through the operations of a list of resolver steps up to the first that
ends the update. -/
theorem stepMany_runFlows {steps : List (Instr × (State → Flow))}
    (hsteps : ∀ p ∈ steps, ResolverStep p.1 p.2) (s : State) (hturn : EngineTurn s) :
    let m := s.withSeq (steps.map (fun p => SeqOp.op p.1) ++ s.seq)
    (∀ t, runFlows (steps.map (·.2)) s = .go t →
      stepMany steps.length m = some t ∧ t.seq = s.seq) ∧
    (∀ t, runFlows (steps.map (·.2)) s = .ended t →
      (t.phase = .idle ∨ t.phase = .halted) ∧ t.seq = [] ∧
        ∃ n ≤ steps.length, stepMany n m = some t) := by
  induction steps generalizing s with
  | nil =>
    intro m
    refine ⟨fun t hgo => ?_, fun t hend => nomatch hend⟩
    obtain rfl := Flow.go.inj hgo
    exact ⟨congrArg some (State.withSeq_self s), rfl⟩
  | cons p steps ih =>
    obtain ⟨i, f⟩ := p
    have hf : ResolverStep i f := hsteps (i, f) List.mem_cons_self
    have hrest := fun q hq => hsteps q (List.mem_cons_of_mem _ hq)
    intro m
    have hstep : step m
        = .next ((f s).reseq (steps.map (fun p => SeqOp.op p.1) ++ s.seq)).state := by
      rw [← hf.reseq]
      exact (step_of_seq (s := m) hturn rfl).trans (hf.exec _)
    have hrun : runFlows (((i, f) :: steps).map (·.2)) s
        = (f s).bind (runFlows (steps.map (·.2))) := rfl
    rw [hrun, List.length_cons]
    cases hfs : f s with
    | ended u =>
      rw [hfs] at hstep
      obtain ⟨hphase, hseq⟩ := hf.ended hfs
      refine ⟨fun t hgo => (nomatch hgo), fun t hend => ?_⟩
      obtain rfl := Flow.ended.inj hend
      exact ⟨hphase, hseq, 1, by omega, stepMany_succ hstep 0⟩
    | go u =>
      rw [hfs, ← hf.seq_of_go hfs] at hstep
      obtain ⟨hgo, hend⟩ := ih hrest u (hf.turn hfs hturn)
      rw [Flow.bind_go, ← hf.seq_of_go hfs]
      refine ⟨fun t ht => ?_, fun t ht => ?_⟩
      · rw [stepMany_succ hstep]
        exact hgo t ht
      · obtain ⟨hphase, hseq, n, hn, hsome⟩ := hend t ht
        exact ⟨hphase, hseq, n + 1, by omega, (stepMany_succ hstep n).trans hsome⟩

/-! ## The bounds of an accepted frame (R251) -/

/-- A product of two values from 0 up to their bounds. -/
theorem mul_between {a b m n : Int} (ha : 0 ≤ a) (ham : a ≤ m) (hb : 0 ≤ b) (hbn : b ≤ n) :
    0 ≤ a * b ∧ a * b ≤ m * n :=
  ⟨mul_nonneg ha hb, mul_le_mul ham hbn hb (ha.trans ham)⟩

/-- The starts of a window and of its accumulators from 0, or from `h` where the window's left edge
is not clamped yet, up to what the steps so far can make of them (R231 to R243). -/
structure StartsIn (h x y : Int) (g : Geometry) : Prop where
  inRange : g.InRange
  hStart : h ≤ g.hStart
  vStart : 0 ≤ g.vStart
  xStart : 0 ≤ g.xStart ∧ g.xStart ≤ x
  yStart : 0 ≤ g.yStart ∧ g.yStart ≤ y

/-- R231: the starts are register fields, of 12 bits for the accumulators. -/
theorem extentOf_startsIn (r : Regs) (g : Geometry) : StartsIn 0 4095 4095 (extentOf r g) where
  inRange := extentOf_inRange r g
  hStart := Int.natCast_nonneg _
  vStart := Int.natCast_nonneg _
  xStart := ⟨Int.natCast_nonneg _, Int.ofNat_le.mpr (Nat.le_of_lt_succ (BitVec.isLt _))⟩
  yStart := ⟨Int.natCast_nonneg _, Int.ofNat_le.mpr (Nat.le_of_lt_succ (BitVec.isLt _))⟩

/-- R233, R234: the porch is at most 128 columns wide. -/
theorem porch_startsIn {x y : Int} {g : Geometry} (h : StartsIn 0 x y g) :
    StartsIn (-128) x y { g with
      ispal := isPal g.vSync
      hStart := g.hStart - (if isPal g.vSync then 128 else 108) } where
  inRange := h.inRange
  hStart := by
    have := h.hStart
    dsimp only
    split <;> omega
  vStart := h.vStart
  xStart := h.xStart
  yStart := h.yStart

/-- R235: the clamp at the left edge makes up for at most the porch. -/
theorem hclampOf_startsIn {y : Int} {g : Geometry} (h : StartsIn (-128) 4095 y g) :
    StartsIn 0 528255 y (hclampOf g) := by
  obtain ⟨hrange, hstart, hv, ⟨hx0, hx⟩, hy⟩ := h
  obtain ⟨⟨hadd0, hadd⟩, -⟩ := id hrange
  rcases lt_or_ge g.hStart 0 with hneg | hnonneg
  · rw [hclampOf_of_neg hneg]
    obtain ⟨hlo, hhi⟩ := mul_between hadd0 hadd (show 0 ≤ -g.hStart by omega)
      (show -g.hStart ≤ 128 by omega)
    exact ⟨hrange, le_rfl, hv, by dsimp only; omega, hy⟩
  · rw [hclampOf_of_nonneg hnonneg]
    exact ⟨hrange, hnonneg, hv, by omega, hy⟩

/-- R241: the halved porch of at most 44 half-lines advances the accumulator by at most 22 rows. -/
theorem vporchOf_startsIn {x : Int} {g : Geometry} (h : StartsIn 0 x 4095 g) :
    StartsIn 0 x 94185 (vporchOf g) := by
  obtain ⟨hrange, hh, hstart, hx, hy0, hy⟩ := h
  obtain ⟨-, ⟨hadd0, hadd⟩, -⟩ := id hrange
  rcases lt_or_ge (tdiv (g.vStart - vOffset g) 2) 0 with hneg | hnonneg
  · rw [vporchOf_of_neg hneg]
    have hoffset : vOffset g ≤ 44 := by
      rw [vOffset]
      split <;> decide
    have hhalf : -22 ≤ tdiv (g.vStart - vOffset g) 2 := by
      rw [tdiv, Int.tdiv_eq_ediv, Int.sign_eq_one_of_pos two_pos]
      split <;> omega
    obtain ⟨hlo, hhi⟩ := mul_between hadd0 hadd
      (show 0 ≤ -tdiv (g.vStart - vOffset g) 2 by omega)
      (show -tdiv (g.vStart - vOffset g) 2 ≤ 22 by omega)
    exact ⟨hrange, hh, le_rfl, hx, by dsimp only; omega⟩
  · rw [vporchOf_of_nonneg hnonneg]
    exact ⟨hrange, hh, hnonneg, hx, hy0, by dsimp only; omega⟩

theorem vporchOf_lowerfield (g : Geometry) : (vporchOf g).lowerfield = g.lowerfield := by
  rcases lt_or_ge (tdiv (g.vStart - vOffset g) 2) 0 with hneg | hnonneg
  · rw [vporchOf_of_neg hneg]
  · rw [vporchOf_of_nonneg hnonneg]

/-- R243: a window inside the canvas, which may be empty. -/
structure InCanvas (g : Geometry) : Prop where
  starts : StartsIn 0 528255 94185 g
  hfit : g.hStart + g.hres ≤ 640
  vfit : g.vStart + g.vres ≤ 625

theorem canvas_inCanvas {g : Geometry} (h : StartsIn 0 528255 94185 g) :
    InCanvas (canvasVOf (canvasHOf g)) := by
  rw [canvasVOf_eq, canvasHOf_eq]
  refine ⟨⟨h.inRange, h.hStart, h.vStart, h.xStart, h.yStart⟩, ?_, ?_⟩
  · dsimp only
    split <;> omega
  · dsimp only
    split <;> omega

theorem canvas_lowerfield (g : Geometry) :
    (canvasVOf (canvasHOf g)).lowerfield = g.lowerfield := by
  rw [canvasVOf_eq, canvasHOf_eq]

theorem resolveMiddle_inCanvas {u : State} (h : StartsIn 0 4095 4095 u.geom) :
    let b := resolveCanvas (resolveVporch (resolveField (resolveHclamp0 (resolveHporch
      (resolveTv u)))))
    InCanvas b.geom ∧ b.snap = u.snap ∧ (b.geom.lowerfield = true → u.ctrl.serrate = true) := by
  obtain ⟨v, l, hgeom, hsnap, hlower⟩ := resolveMiddle_geom u
  obtain ⟨hrange, hh, hv, hx, hy⟩ := hclampOf_startsIn (porch_startsIn h)
  refine ⟨?_, hsnap, fun hl => hlower ?_⟩
  · rw [hgeom]
    exact canvas_inCanvas (vporchOf_startsIn ⟨hrange, hh, hv, hx, hy⟩)
  · rw [hgeom, canvas_lowerfield, vporchOf_lowerfield] at hl
    exact hl

/-- What R231 to R248 have made of the geometry of a frame they accept. -/
structure AcceptedGeometry (c : Ctrl) (g : Geometry) : Prop where
  inRange : g.InRange
  hStart : 0 ≤ g.hStart
  hres : 0 < g.hres
  hfit : g.hStart + g.hres ≤ 640
  vStart : 0 ≤ g.vStart
  vres : 0 < g.vres
  vfit : g.vStart + g.vres ≤ 625
  bothFit : c.serrate = true → 2 * (g.vStart + g.vres) ≤ 625
  xStart : 0 ≤ g.xStart ∧ g.xStart ≤ 528255
  yStart : 0 ≤ g.yStart ∧ g.yStart ≤ 94185
  vactive : g.vactive ≤ 625
  minhpass : 0 ≤ g.minhpass
  maxhpass : g.maxhpass ≤ g.hres
  linecount : g.linecount = if c.serrate then 1280 else 640
  prescalePtr : g.prescalePtr = g.vStart * g.linecount + g.hStart
    + (if g.lowerfield then 640 else 0)
  lowerfield : g.lowerfield = true → c.serrate = true

/-- R251: what the tests of R244, R246 and R248 leave of the window inside the canvas. -/
theorem accepted_geometry {t : State} (h : Accepted t) : AcceptedGeometry t.ctrl t.geom := by
  obtain ⟨s, hs⟩ := h
  obtain ⟨u, hctrl, hu⟩ := resolveCtrl_go (resolveExtent (takeSnapshot s))
  rw [resolveFrame, hctrl, Flow.bind_go] at hs
  have hraw : StartsIn 0 4095 4095 u.geom := by
    obtain ⟨hrange, hh, hv, hx, hy⟩ := extentOf_startsIn s.regs s.geom
    rw [hu]
    exact ⟨hrange, hh, hv, hx, hy⟩
  obtain ⟨hcanvas, hbsnap, hlower⟩ := resolveMiddle_inCanvas hraw
  obtain ⟨hactive0, hactive, hhres, hvres, -, hboth, hsnap, hgeom⟩ := resolveTail_go hs
  rw [hgeom, State.ctrl_congr hsnap]
  obtain ⟨⟨hrange, hh, hv, hx, hy⟩, hfit, vfit⟩ := hcanvas
  refine ⟨hrange, hh, hhres, hfit, hv, hvres, vfit, hboth, hx, hy, ?_, ?_, ?_, rfl, rfl, ?_⟩
  · dsimp only
    split <;> omega
  · dsimp only
    split <;> decide
  · dsimp only
    split <;> omega
  · exact fun hl => (State.ctrl_congr hbsnap).symm ▸ hlower hl

/-- R251: the accumulators of the window's columns. -/
theorem AcceptedGeometry.xaccOf_le {c : Ctrl} {g : Geometry} (h : AcceptedGeometry c g) {x : Nat}
    (hx : (x : Int) < g.hres) : xaccOf g x ≤ 3144960 := by
  obtain ⟨⟨hadd0, hadd⟩, -⟩ := h.inRange
  have hstart := h.hStart
  have hfit := h.hfit
  have hxstart := h.xStart
  obtain ⟨-, hmul⟩ := mul_between (Int.natCast_nonneg x) (show (x : Int) ≤ 639 by omega) hadd0 hadd
  rw [xaccOf]
  omega

/-- R251: the accumulators of the window's rows. -/
theorem AcceptedGeometry.curryOf_between {c : Ctrl} {g : Geometry} (h : AcceptedGeometry c g)
    {y : Nat} (hy : (y : Int) < g.vres) : 0 ≤ curryOf g y ∧ curryOf g y ≤ 2653560 := by
  obtain ⟨-, ⟨hadd0, hadd⟩, -⟩ := h.inRange
  have hstart := h.vStart
  have hfit := h.vfit
  have hystart := h.yStart
  obtain ⟨hmul0, hmul⟩ :=
    mul_between (Int.natCast_nonneg y) (show (y : Int) ≤ 624 by omega) hadd0 hadd
  rw [curryOf]
  omega

/-- R87, R249, R251: the word of a pixel of the window lies inside the buffer. -/
theorem AcceptedGeometry.writeIndex_inside {c : Ctrl} {g : Geometry} (h : AcceptedGeometry c g)
    {y x : Nat} (hy : (y : Int) < g.vres) (hx : (x : Int) < g.hres) :
    0 ≤ writeIndex g y x ∧ writeIndex g y x < 400000 := by
  obtain ⟨-, hh, -, hfit, hv, -, vfit, hboth, -, -, -, -, -, hline, hptr, hlower⟩ := h
  rw [writeIndex, hptr, hline]
  by_cases hserrate : c.serrate = true
  · have := hboth hserrate
    rw [if_pos hserrate]
    split <;> omega
  · rw [if_neg hserrate, if_neg (mt hlower hserrate)]
    omega

/-- R249: lines are at least as far apart as the window is wide. -/
theorem AcceptedGeometry.writeIndex_injective {c : Ctrl} {g : Geometry} (h : AcceptedGeometry c g)
    {y x y' x' : Nat} (hx : (x : Int) < g.hres) (hx' : (x' : Int) < g.hres)
    (heq : writeIndex g y x = writeIndex g y' x') : y = y' ∧ x = x' := by
  have hstart := h.hStart
  have hfit := h.hfit
  rw [writeIndex, writeIndex, h.linecount] at heq
  by_cases hserrate : c.serrate = true
  · rw [if_pos hserrate] at heq
    omega
  · rw [if_neg hserrate] at heq
    omega

theorem inBuffer_iff (d : Desc) : d.inBuffer = true ↔ 0 ≤ d.ptr ∧ 0 ≤ d.pitch ∧
    (d.height ≤ 0 ∨ d.width ≤ 0 ∨ d.ptr + (d.height - 1) * d.pitch + d.width ≤ 400000) := by
  simp only [Desc.inBuffer, Config.prescaleWords, Bool.and_eq_true, Bool.or_eq_true,
    decide_eq_true_eq, and_assoc, or_assoc]

/-- R343, R348: the full rectangle has at most 625 rows of 640 words. -/
theorem AcceptedGeometry.fullRect_inBuffer {c : Ctrl} {g : Geometry} (h : AcceptedGeometry c g) :
    (fullRect g).inBuffer = true := by
  have hactive := h.vactive
  rw [inBuffer_iff]
  simp only [fullRect, Config.maxW]
  omega

/-- R344, R348: the crop rectangle ends with the window's last row. -/
theorem AcceptedGeometry.cropRect_inBuffer {c : Ctrl} {g : Geometry} (h : AcceptedGeometry c g) :
    (cropRect c g).inBuffer = true := by
  obtain ⟨-, hh, -, hfit, hv, -, vfit, hboth, -, -, -, hmin, hmax, -, -, -⟩ := h
  rw [inBuffer_iff]
  simp only [cropRect, bothFields, Config.maxW]
  by_cases hserrate : c.serrate = true
  · have := hboth hserrate
    simp only [hserrate, if_true]
    omega
  · simp only [if_neg hserrate]
    omega

/-! ## The accepted fast frame (R320, R321, R327) -/

/-- R320, R321: an accepted fast frame is not empty and fits the buffer. -/
theorem acceptedFast_geometry {t : State} (h : AcceptedFast t) : 0 < t.geom.hresRaw ∧
    0 < t.geom.vresRaw ∧ t.geom.hresRaw * t.geom.vresRaw ≤ 400000 := by
  obtain ⟨s, u, rest, hgeom, hfit⟩ := h
  cases hprologue : fastPrologue s with
  | ended p => cases (fastGeom_of_ended hprologue).symm.trans hgeom
  | go p =>
    rw [fastGeom_of_go hprologue, fastTests] at hgeom
    split at hgeom
    · cases hgeom
    next hempty =>
      have hu : u.geom = (fastExtent p).geom := by
        split at hgeom
        · cases hgeom
        · split at hgeom
          · cases hgeom
          · split at hgeom
            · cases hgeom
            · obtain rfl := Flow.go.inj hgeom
              rfl
      rcases le_or_gt ((u.withSeq rest).geom.hresRaw * (u.withSeq rest).geom.vresRaw) 400000
        with hle | hgt
      · obtain rfl := Flow.go.inj ((fastFit_of_fits hle).symm.trans hfit)
        rw [State.withSeq_geom, hu] at hle ⊢
        exact ⟨by omega, by omega, hle⟩
      · cases (fastFit_of_tooLarge hgt).symm.trans hfit

/-- R328: the dense index determines its row and column. -/
theorem fastIndex_injective {g : Geometry} {y x y' x' : Nat} (hx : (x : Int) < g.hresRaw)
    (hx' : (x' : Int) < g.hresRaw) (heq : fastIndex g y x = fastIndex g y' x') :
    y = y' ∧ x = x' := by
  have hpos : 0 < g.hresRaw := by omega
  have hrow (y x : Nat) (hx : (x : Int) < g.hresRaw) : fastIndex g y x / g.hresRaw = y := by
    rw [fastIndex, add_comm, Int.add_mul_ediv_right _ _ hpos.ne',
      Int.ediv_eq_zero_of_lt (Int.natCast_nonneg x) hx, zero_add]
  have hy : y = y' := by
    have h := hrow y x hx
    rw [heq, hrow y' x' hx'] at h
    omega
  subst hy
  rw [fastIndex, fastIndex] at heq
  omega

/-- R327: the dense index of a pixel is below the number of pixels. -/
theorem fastIndex_lt {g : Geometry} {y x : Nat} (hy : (y : Int) < g.vresRaw)
    (hx : (x : Int) < g.hresRaw) : fastIndex g y x < g.hresRaw * g.vresRaw := by
  have hrows : ((y : Int) + 1) * g.hresRaw ≤ g.vresRaw * g.hresRaw :=
    mul_le_mul_of_nonneg_right hy (by omega)
  rw [fastIndex, mul_comm g.hresRaw]
  linarith

theorem nolerp16_eq_decide (c : Ctrl) (h x : Int) : nolerp16 c h x
    = decide (c.aaMode = .replicate ∧ c.ctype = .rgba16 ∧ h < 128 ∧ x ≤ 0x200) := by
  simp only [nolerp16, Bool.decide_and, Bool.and_assoc]

end Sys2Proof.Machine

namespace Sys2Proof.Proofs

open Sys2Proof.Machine

/-- Settles O15: the equation of R232, with bit 1 of the colour type. -/
theorem controlStepResult : Obligations.ControlStepResult := by
  intro s vbus glitch
  have hexec : exec .resCtrl s = .next (resolveCtrl s).state := rfl
  have hglitch : nolerp16 s.ctrl s.geom.hStart s.geom.xAdd = glitch := nolerp16_eq_decide _ _ _
  have hdata : hasData s.ctrl.ctype = s.snap.control.getLsbD 1 := hasData_decodeCtrl _
  rw [hexec, resolveCtrl_eq, Flow.state_go, hglitch, hdata]

/-- Settles O17: the authority and the field of a valid-interlaced frame, and any other frame. -/
theorem fieldStateMachineResult : Obligations.FieldStateMachineResult := by
  refine ⟨fun s hdata hserrate => ?_, fun s hprogressive => ?_⟩
  · have hfield := resolveField_of_interlaced hdata hserrate
    refine ⟨inferAuthority s.interlace s.geom.parity, _, rfl, fun ha => ?_, fun ha heq => ?_,
      fun ha hne => ?_, fun ha => ?_, congrArg Host.Outcome.next hfield,
      congrArg Host.Outcome.next hfield.symm⟩
    · rw [ha, fieldOf_hardware]
    · rw [ha, fieldOf_software_same _ _ heq]
    · rw [ha, fieldOf_software_moved _ _ hne]
    · rw [ha]
      rfl
  · exact congrArg Host.Outcome.next (resolveField_of_progressive hprogressive)

/-- Settles O20: the two rows by their equations. -/
theorem borderAndPointerResult : Obligations.BorderAndPointerResult := fun _ => ⟨rfl, rfl⟩

/-- Settles O22: the fourteen operations as a list of resolver steps. -/
theorem resolverRunsInOrder : Obligations.ResolverRunsInOrder := by
  intro s rest hturn _ hseq
  have hself : (s.withSeq rest).withSeq
      (resolverSteps.map (fun p => SeqOp.op p.1) ++ (s.withSeq rest).seq) = s := by
    rw [State.withSeq_withSeq, State.withSeq_seq]
    exact (congrArg s.withSeq hseq.symm).trans (State.withSeq_self s)
  obtain ⟨hgo, hend⟩ := stepMany_runFlows resolverSteps_spec (s.withSeq rest) hturn
  rw [hself] at hgo hend
  rw [resolveFrame_eq_runFlows]
  exact ⟨hgo, hend⟩

/-- Settles O23: the bounds of the accepted geometry, and of what R251 computes from it. -/
theorem acceptedFrameBounds : Obligations.AcceptedFrameBounds := by
  intro t ht
  have h := accepted_geometry ht
  obtain ⟨-, -, -, hwidth⟩ := h.inRange
  have hfit := h.hfit
  have vfit := h.vfit
  have hhres := h.hres
  have hvres := h.vres
  refine ⟨h.hStart, by omega, hhres, by omega, h.vStart, by omega, hvres, by omega, h.xStart.1,
    h.xStart.2, h.yStart.1, h.yStart.2, fun x hx => ?_, fun y hy => ?_⟩
  · have hacc := h.xaccOf_le hx
    have hcolumn : accInt (xaccOf t.geom x) = xaccOf t.geom x / 1024 := rfl
    exact ⟨hacc, by omega⟩
  · obtain ⟨hacc0, hacc⟩ := h.curryOf_between hy
    have hrow : accInt (curryOf t.geom y) = curryOf t.geom y / 1024 := rfl
    obtain ⟨-, hbase⟩ := mul_between (Int.natCast_nonneg t.geom.width)
      (show (t.geom.width : Int) ≤ 4095 by omega) (show 0 ≤ accInt (curryOf t.geom y) by omega)
      (show accInt (curryOf t.geom y) ≤ 2591 by omega)
    exact ⟨hacc, by omega, by omega⟩

/-- Settles O24: the accepted geometry's words and rectangles, and the accepted fast frame's. -/
theorem acceptedFrameWords : Obligations.AcceptedFrameWords := by
  refine ⟨fun t y x y' x' ht _ hx _ hx' heq => ?_, fun t ht => ?_, fun t ht => ?_⟩
  · exact (accepted_geometry ht).writeIndex_injective hx hx' heq
  · have h := accepted_geometry ht
    exact ⟨fun y x hy hx => h.writeIndex_inside hy hx, fun _ => h.fullRect_inBuffer,
      fun _ => h.cropRect_inBuffer⟩
  · obtain ⟨hh, hv, hfit⟩ := acceptedFast_geometry ht
    refine ⟨fun y x y' x' _ hx _ hx' heq => fastIndex_injective hx hx' heq,
      fun y x hy hx => ⟨by positivity, (fastIndex_lt hy hx).trans_le hfit⟩, ?_⟩
    rw [inBuffer_iff]
    refine ⟨le_rfl, hh.le, .inr (.inr ?_)⟩
    simp only [fastRect]
    linarith

end Sys2Proof.Proofs
end

section
/-! The proofs of the pipelines' remaining statements (43_pipeline_filtered.md,
44_pipeline_fast.md): the partition, the caches of a scanline, and the pixels both pipelines
write. -/

namespace Sys2Proof.Machine

/-! ## The partition (R166) -/

/-- R166: the items of the loop from `y` are those below `n` that lie in `y`'s class modulo `w`. -/
theorem mem_strideFrom {w n : Nat} (hw : 0 < w) {fuel y : Nat} (hfuel : n ≤ fuel + y) {k : Nat} :
    k ∈ strideFrom w n fuel y ↔ y ≤ k ∧ k < n ∧ k % w = y % w := by
  induction fuel generalizing y with
  | zero => exact ⟨fun h => absurd h List.not_mem_nil, fun ⟨hle, hlt, _⟩ => by omega⟩
  | succ fuel ih =>
    rw [strideFrom]
    split
    next hy =>
      rw [List.mem_cons, ih (by omega), Nat.add_mod_right]
      constructor
      · rintro (rfl | ⟨hle, hlt, hmod⟩)
        · exact ⟨le_rfl, hy, rfl⟩
        · exact ⟨by omega, hlt, hmod⟩
      · rintro ⟨hle, hlt, hmod⟩
        rcases hle.eq_or_lt with rfl | hgt
        · exact .inl rfl
        · exact .inr ⟨Nat.ModEq.add_le_of_lt hmod.symm hgt, hlt, hmod⟩
    next hy => exact ⟨fun h => absurd h List.not_mem_nil, fun ⟨hle, hlt, _⟩ => by omega⟩

theorem strideFrom_pairwise {w n : Nat} (hw : 0 < w) {fuel y : Nat} (hfuel : n ≤ fuel + y) :
    (strideFrom w n fuel y).Pairwise (· < ·) := by
  induction fuel generalizing y with
  | zero => exact .nil
  | succ fuel ih =>
    rw [strideFrom]
    split
    · refine .cons (fun k hk => ?_) (ih (by omega))
      obtain ⟨hle, -, -⟩ := (mem_strideFrom hw (by omega)).mp hk
      omega
    · exact .nil

/-- R166: in increasing order, every item whose number is the worker's id modulo `w`. -/
theorem ownedItems_eq_filter {wid w : Nat} (h : wid < w) (n : Nat) :
    ownedItems wid w n = (List.range n).filter fun y => y % w = wid := by
  have hw : 0 < w := by omega
  refine (strideFrom_pairwise hw (by omega)).eq_of_mem_iff
    (List.pairwise_lt_range.filter _) fun k => ?_
  rw [mem_strideFrom hw (by omega), List.mem_filter, List.mem_range, decide_eq_true_iff,
    Nat.mod_eq_of_lt h]
  refine ⟨fun ⟨_, hlt, hmod⟩ => ⟨hlt, hmod⟩, fun ⟨hlt, hmod⟩ => ⟨?_, hlt, hmod⟩⟩
  exact hmod ▸ Nat.mod_le k w

/-! ## The caches of a scanline (R283, R285) -/

theorem cacheHolds_empty (first : Int) (value : Int → CCVG) :
    CacheHolds first value ⟨[], first - 1⟩ where
  started := by dsimp only; omega
  filled k hlo hhi := by dsimp only at hhi; omega
  nothingElse _ _ := rfl

theorem newCaches_scanlineCaches (s : State) (w : Worker) :
    ScanlineCaches s (newCaches s.geom w) := by
  have hraw (value : Int → CCVG) := cacheHolds_empty (firstColumn s - 1) value
  rw [sub_sub, one_add_one_eq_two] at hraw
  exact ⟨hraw _, hraw _, fun _ => cacheHolds_empty _ _, fun _ => cacheHolds_empty _ _⟩

/-- A raw cache brought up to a column (R284). -/
def rawFilled (s : State) (base c : Int) (cache : Cache) : Cache :=
  rawFill s base (cache.lacks c) cache

theorem rawFilled_mark (s : State) (base c : Int) (cache : Cache) :
    (rawFilled s base c cache).mark = max cache.mark c := by
  rw [rawFilled, (rawFill_spec s base _ _).1, Cache.mark_lacks]

/-- R287 with divot off: both raw caches. -/
theorem needs_of_divot_off {s : State} (w : Worker) (cur : Int) (h : s.ctrl.divot = false) :
    needs cur s w = some { w with
      rawc := rawFilled s w.pixels (cur + 1) w.rawc
      rawn := rawFilled s w.nextpixels (cur + 1) w.rawn } := by
  rw [needs, rawTarget, h]
  rfl

/-- R287 with divot on: both raw caches a column further, then both divot caches from them. -/
theorem needs_of_divot_on {s : State} {w : Worker} {cur : Int} {dc dn : Cache}
    (h : s.ctrl.divot = true)
    (hc : divFill (rawFilled s w.pixels (cur + 2) w.rawc) (w.divc.lacks (cur + 1)) w.divc = some dc)
    (hn : divFill (rawFilled s w.nextpixels (cur + 2) w.rawn) (w.divn.lacks (cur + 1)) w.divn
      = some dn) :
    needs cur s w = some { w with
      rawc := rawFilled s w.pixels (cur + 2) w.rawc
      rawn := rawFilled s w.nextpixels (cur + 2) w.rawn
      divc := dc
      divn := dn } := by
  have hcur : divNeed .current .current (cur + 1) (rawNeed .next w.nextpixels (cur + 2) s
      (rawNeed .current w.pixels (cur + 2) s w)) = some { w with
        rawc := rawFilled s w.pixels (cur + 2) w.rawc
        rawn := rawFilled s w.nextpixels (cur + 2) w.rawn
        divc := dc } := congrArg (Option.map _) hc
  rw [needs, rawTarget, if_pos h, if_pos h, hcur]
  exact congrArg (Option.map _) hn

/-- What `NEEDS` leaves of the worker: nothing but the caches is new, no marker falls, and the
columns that the pixel at `cur` reads are filled (R287). -/
structure NeedsLeaves (s : State) (cur : Int) (w v : Worker) : Prop where
  caches : ScanlineCaches s v
  frame : v = { w with rawc := v.rawc, rawn := v.rawn, divc := v.divc, divn := v.divn }
  rawcMark : w.rawc.mark ≤ v.rawc.mark
  rawnMark : w.rawn.mark ≤ v.rawn.mark
  divcMark : w.divc.mark ≤ v.divc.mark
  divnMark : w.divn.mark ≤ v.divn.mark
  divotOff : s.ctrl.divot = false → cur + 1 ≤ v.rawc.mark ∧ cur + 1 ≤ v.rawn.mark
  divotOn : s.ctrl.divot = true → cur + 2 ≤ v.rawc.mark ∧ cur + 2 ≤ v.rawn.mark ∧
    cur + 1 ≤ v.divc.mark ∧ cur + 1 ≤ v.divn.mark

theorem needs_spec {s : State} {w : Worker} (h : ScanlineCaches s w) (cur : Int) :
    ∃ v, needs cur s w = some v ∧ NeedsLeaves s cur w v := by
  have hrawc (c : Int) := rawFilled_mark s w.pixels c w.rawc
  have hrawn (c : Int) := rawFilled_mark s w.nextpixels c w.rawn
  cases hdivot : s.ctrl.divot with
  | false =>
    have hmarkc := hrawc (cur + 1)
    have hmarkn := hrawn (cur + 1)
    refine ⟨_, needs_of_divot_off w cur hdivot,
      ⟨h.rawc.rawFill _, h.rawn.rawFill _, h.divc, h.divn⟩, rfl, by dsimp only; omega,
      by dsimp only; omega, le_rfl, le_rfl,
      fun _ => ⟨by dsimp only; omega, by dsimp only; omega⟩,
      fun hon => absurd (hdivot.symm.trans hon) Bool.false_ne_true⟩
  | true =>
    have hmarkc := hrawc (cur + 2)
    have hmarkn := hrawn (cur + 2)
    obtain ⟨dc, hc, hcmark, hcholds⟩ := (h.rawc.rawFill _).divFill (h.divc hdivot) (cur + 1)
      (show cur + 1 + 1 ≤ (rawFilled s w.pixels (cur + 2) w.rawc).mark by omega)
    obtain ⟨dn, hn, hnmark, hnholds⟩ := (h.rawn.rawFill _).divFill (h.divn hdivot) (cur + 1)
      (show cur + 1 + 1 ≤ (rawFilled s w.nextpixels (cur + 2) w.rawn).mark by omega)
    refine ⟨_, needs_of_divot_on hdivot hc hn,
      ⟨h.rawc.rawFill _, h.rawn.rawFill _, fun _ => hcholds, fun _ => hnholds⟩, rfl,
      by dsimp only; omega, by dsimp only; omega, by dsimp only; omega, by dsimp only; omega,
      fun hoff => absurd (hoff.symm.trans hdivot) Bool.false_ne_true,
      fun _ => ⟨by dsimp only; omega, by dsimp only; omega, by dsimp only; omega,
        by dsimp only; omega⟩⟩

/-- R286: the divot columns above the marker up to the needed one, and the worker around them. -/
theorem divNeed_spec {w : Worker} {row : SrcRow} {c : Int} {raw : Int → CCVG}
    (hfilled : ∀ k, (w.div row).mark ≤ k → k ≤ c + 1 → (w.raw row).get k = some (raw k))
    (hmark : (w.div row).mark < c → c + 1 ≤ (w.raw row).mark) :
    ∃ d, divNeed row row c w = some (w.setDiv row d) ∧ d.mark = max (w.div row).mark c ∧
      ∀ k, d.get k = if (w.div row).mark < k ∧ k ≤ c
        then some (divot (raw (k - 1)) (raw k) (raw (k + 1))) else (w.div row).get k := by
  have hlacks := Cache.mark_lacks (w.div row) c
  obtain ⟨d, hfill, hdmark, hget⟩ := divFill_spec (w.raw row) raw ((w.div row).lacks c) (w.div row)
    fun hn => by
      have hlt : (w.div row).mark < c := by
        unfold Cache.lacks at hn
        omega
      have := hmark hlt
      exact ⟨by omega, fun k hlo hhi => hfilled k hlo (by omega)⟩
  refine ⟨d, by rw [divNeed, hfill]; rfl, by omega, fun k => ?_⟩
  rw [hget]
  exact if_congr (by omega) rfl rfl

/-! ## The pixel of the closed form (R288 to R290, R293) -/

/-- R288, R293: a filled column of a row holds what the closed form selects there. -/
theorem selected_eq_selAt {s : State} {w : Worker} {row : SrcRow} {r base k : Int}
    (hraw : CacheHolds (firstColumn s - 1) (rawValue s base) (w.raw row))
    (hdiv : s.ctrl.divot = true → CacheHolds (firstColumn s) (divValue s base) (w.div row))
    (hbase : base = s.geom.width * r) (hfirst : firstColumn s ≤ k)
    (hoff : s.ctrl.divot = false → k ≤ (w.raw row).mark)
    (hon : s.ctrl.divot = true → k ≤ (w.div row).mark) :
    selected s.ctrl.divot w row k = some (selAt s r k) := by
  subst hbase
  cases hdivot : s.ctrl.divot with
  | false =>
    rw [selected, if_neg Bool.false_ne_true, hraw.filled k (by omega) (hoff hdivot), selAt,
      if_neg (by rw [hdivot]; exact Bool.false_ne_true)]
    rfl
  | true =>
    rw [selected, if_pos rfl, (hdiv hdivot).filled k hfirst (hon hdivot), selAt, if_pos hdivot]
    rfl

theorem colourAt_eq (s : State) (r k : Int) (xf yf : BitVec 5) :
    (if s.ctrl.aaMode = .replicate then selAt s r k
      else if xf = 0 ∧ yf = 0 then selAt s r k
      else lerp (lerp (selAt s r k) (selAt s r (k + 1)) xf)
        (lerp (selAt s (r + 1) k) (selAt s (r + 1) (k + 1)) xf) yf) = colourAt s r k xf yf := by
  by_cases hmode : s.ctrl.aaMode = .replicate
  · rw [if_pos hmode, colourAt, if_pos (.inl hmode)]
  · rw [if_neg hmode, colourAt]
    exact if_congr (or_iff_right hmode).symm rfl rfl

/-- R289, R293: the blend of the filled caches is the closed form's colour. -/
theorem blend_eq_colourAt {s : State} {w : Worker} {r cur : Int} (h : NeedsLeaves s cur w w)
    (hfirst : firstColumn s ≤ cur) (hpixels : w.pixels = s.geom.width * r)
    (hnext : w.nextpixels = w.pixels + s.geom.width) (xf yf : BitVec 5) :
    blend s.ctrl w cur xf yf = some (colourAt s r cur xf yf) := by
  have hnext' : w.nextpixels = s.geom.width * (r + 1) := by
    rw [hnext, hpixels, mul_add, mul_one]
  have hcurrent {k : Int} (hk : firstColumn s ≤ k) (hle : k ≤ cur + 1) :=
    selected_eq_selAt (row := .current) h.caches.rawc h.caches.divc hpixels hk
      (fun hoff => hle.trans (h.divotOff hoff).1) fun hon => hle.trans (h.divotOn hon).2.2.1
  have hbelow {k : Int} (hk : firstColumn s ≤ k) (hle : k ≤ cur + 1) :=
    selected_eq_selAt (row := .next) h.caches.rawn h.caches.divn hnext' hk
      (fun hoff => hle.trans (h.divotOff hoff).2) fun hon => hle.trans (h.divotOn hon).2.2.2
  have hmixed := blendResample_of_filled (hcurrent hfirst (by omega))
    (hcurrent (k := cur + 1) (by omega) le_rfl) (hbelow hfirst (by omega))
    (hbelow (k := cur + 1) (by omega) le_rfl) xf yf
  rw [blend_of_some (hcurrent hfirst (by omega)) hmixed, colourAt_eq]

/-! ## The write (R292) -/

theorem sparseWf_of_wf {p : Prescale} (h : Prescale.wf p = true) : sparseWf p = true :=
  ((Bool.and_eq_true _ _).mp h).1

/-- R292, R87: a write inside the buffer reads back, and no other word changes. -/
theorem writePrescale_inside {s : State} {i : Int} (v : Word) (hwf : Prescale.wf s.prescale = true)
    (hlo : 0 ≤ i) (hhi : i < 400000) :
    ∃ t, writePrescale i v s = .next t ∧ t = s.withPrescale t.prescale ∧
      prescaleGet t.prescale i.toNat = v ∧
      ∀ j, j ≠ i.toNat → prescaleGet t.prescale j = prescaleGet s.prescale j := by
  rcases writePrescale_cases i v s with ⟨-, -, heq⟩ | ⟨hout, -⟩
  · exact ⟨_, heq, rfl, sparseGet_sparseSet_same _ _ (sparseWf_of_wf hwf),
      fun j hj => sparseGet_sparseSet_other _ (sparseWf_of_wf hwf) hj⟩
  · exact absurd ⟨hlo, hhi⟩ hout

/-! ## `COLUMN` (R282, R294) -/

theorem pix_of_hidden {s : State} {y x : Nat}
    (h : (x : Int) < s.geom.minhpass ∨ s.geom.maxhpass ≤ x) : pix s y x = 0 := by
  rw [pix, if_neg]
  rw [visible_iff]
  omega

theorem pix_of_visible {s : State} {y x : Nat} (hmin : s.geom.minhpass ≤ x)
    (hmax : (x : Int) < s.geom.maxhpass) :
    pix s y x = pack (gammaRgb s (pixColour s y x).rgb y x) :=
  if_pos (visible_iff.mpr ⟨hmin, hmax⟩)

section Column

variable {s : State} {w : Worker} {y x : Nat}

theorem columnLocals_caches (h : ScanlineCaches s w) :
    ScanlineCaches s (columnLocals s.geom y x w) :=
  h.congr rfl rfl rfl rfl rfl rfl rfl rfl rfl rfl rfl

theorem firstColumn_le_accInt (hadd : 0 ≤ s.geom.xAdd) :
    firstColumn s ≤ accInt (xaccOf s.geom x) :=
  Int.ediv_le_ediv (by decide)
    (le_add_of_nonneg_right (mul_nonneg (Int.natCast_nonneg x) hadd))

/-- R282: the worker that a column leaves, and that what it writes is the closed form's pixel. -/
theorem columnPixel_eq (hin : InScanline s y w) (hcaches : ScanlineCaches s w)
    (hadd : 0 ≤ s.geom.xAdd) :
    ∃ v, columnPixel y x s w = writePixel y x (pix s y x) (s.withWorker v) ∧
      InScanline s y v ∧ ScanlineCaches s v ∧ v.seq = w.seq := by
  obtain ⟨hpixels, hnext, hyfrac⟩ := hin
  by_cases hvisible : visible s.geom x = true
  · have hcur : firstColumn s ≤ accInt (xaccOf s.geom x) := firstColumn_le_accInt hadd
    obtain ⟨u, hneeds, hleaves⟩ :=
      needs_spec (columnLocals_caches (y := y) (x := x) hcaches) (accInt (xaccOf s.geom x))
    have hframe := hleaves.frame
    have hself : NeedsLeaves s (accInt (xaccOf s.geom x)) u u :=
      ⟨hleaves.caches, rfl, le_rfl, le_rfl, le_rfl, le_rfl, hleaves.divotOff, hleaves.divotOn⟩
    have hupixels : u.pixels = w.pixels := by rw [hframe]; rfl
    have hunext : u.nextpixels = w.nextpixels := by rw [hframe]; rfl
    have huyfrac : u.yfrac = w.yfrac := by rw [hframe]; rfl
    have hulineX : u.lineX = accInt (xaccOf s.geom x) := by rw [hframe]; rfl
    have huxfrac : u.xfrac = wt (xaccOf s.geom x) := by rw [hframe]; rfl
    have hblend : blend s.ctrl u u.lineX u.xfrac u.yfrac = some (pixColour s y x) := by
      rw [hulineX, huxfrac, huyfrac, hyfrac]
      exact blend_eq_colourAt hself hcur (hupixels.trans hpixels)
        (by rw [hunext, hnext, hupixels]) _ _
    refine ⟨{ u with
      colour := pixColour s y x
      rgb := gammaRgb s (pixColour s y x).rgb y x }, ?_,
      ⟨hupixels.trans hpixels, by dsimp only; rw [hunext, hnext, hupixels], huyfrac.trans hyfrac⟩,
      hleaves.caches.congr rfl rfl rfl rfl rfl rfl rfl rfl rfl rfl rfl, ?_⟩
    · have hcolumn : columnPixel y x s w = columnVisible y x s (columnLocals s.geom y x w) :=
        if_pos hvisible
      have hneeds' : needs (columnLocals s.geom y x w).lineX s (columnLocals s.geom y x w)
        = some u := hneeds
      rw [hcolumn, columnVisible, hneeds', pix, if_pos hvisible]
      dsimp only
      rw [hblend]
    · rw [hframe]
      rfl
  · refine ⟨columnLocals s.geom y x w, ?_, ⟨hpixels, hnext, hyfrac⟩, columnLocals_caches hcaches,
      rfl⟩
    rw [columnPixel, if_neg hvisible, pix, if_neg hvisible]

end Column

/-! ## Unity scale (R294 (c)) -/

theorem accInt_add_mul_unity (a : Int) (n : Nat) :
    accInt (a + n * 0x400) = a / 1024 + n := by
  rw [accInt]
  exact Int.add_mul_ediv_right a n (by decide)

/-- With gamma and its dither off a colour stays as it is (R207, R211). -/
theorem gammaRgb_off {s : State} (hgamma : s.ctrl.gamma = false)
    (hdither : s.ctrl.gammaDither = false) (c : RGB) (y x : Nat) : gammaRgb s c y x = c := by
  simp only [gammaRgb, hgamma, hdither]

/-- In a mode that reads no coverage a sample is raw where the restore filter is off (R190,
R191). -/
theorem filterSample_raw {s : State} (hmode : s.ctrl.aaMode = .replicate)
    (hfilter : s.ctrl.ditherFilter = false) (fmt : Fmt) (c : RGB) (num : Int) (v : BitVec 3) :
    (filterSample s fmt c num (fetchedCvg s v)).rgb = c := by
  have hreads : ¬(s.ctrl.aaMode = .resampExtraAlways ∨ s.ctrl.aaMode = .resampExtra) := by
    rw [hmode]
    decide
  rw [fetchedCvg_of_not_reads hreads, filterSample_rgb_full,
    if_neg (by rw [hfilter]; exact Bool.false_ne_true)]

/-- R294 (c): in replicate mode with divot off a visible pixel is one fetched sample. -/
theorem pix_of_unity {s : State} {y x : Nat} (hxadd : s.geom.xAdd = 0x400)
    (hyadd : s.geom.yAdd = 0x400) (hmode : s.ctrl.aaMode = .replicate)
    (hdivot : s.ctrl.divot = false) (hgamma : s.ctrl.gamma = false)
    (hdither : s.ctrl.gammaDither = false) (hmin : s.geom.minhpass ≤ x)
    (hmax : (x : Int) < s.geom.maxhpass) :
    pix s y x = pack (fetch s (s.geom.width * (s.geom.yStart / 1024 + y)
      + (s.geom.xStart / 1024 + x))).rgb := by
  have hsel (r c : Int) : selAt s r c = fetch s (s.geom.width * r + c) :=
    if_neg (by rw [hdivot]; exact Bool.false_ne_true)
  rw [pix_of_visible hmin hmax, gammaRgb_off hgamma hdither, pixColour, colourAt,
    if_pos (.inl hmode), hsel, curryOf, xaccOf, hxadd, hyadd, accInt_add_mul_unity,
    accInt_add_mul_unity]

/-! ## The fast pixel (R322, R328) -/

/-- The colour of a fast pixel: the sample function of the intent and of the colour type. -/
theorem fastSample_eq {s : State} (hintent : s.cfgCopy.intent ≠ .normal)
    (htype : s.cfgCopy.intent = .colorFast → s.ctrl.ctype = .rgba16 ∨ s.ctrl.ctype = .rgba32)
    (y x : Nat) : ∃ c, fastSample s (fastOffset s.geom y x) = some c ∧
      fastPix s y x = pack (gammaRgb s c y x) := by
  have hrow : decodeMode .pipeline s.mode = pipelineRow s.cfgCopy.intent s.ctrl.ctype :=
    decodeMode_pipeline _ _
  unfold fastSample fastPix
  rw [hrow]
  cases hi : s.cfgCopy.intent with
  | normal => exact absurd hi hintent
  | colorFast =>
    rcases htype hi with hc | hc
    · rw [hc]
      exact ⟨_, rfl, rfl⟩
    · rw [hc]
      exact ⟨_, rfl, rfl⟩
  | depthFast => exact ⟨_, rfl, rfl⟩
  | coverageFast => exact ⟨_, rfl, rfl⟩

end Sys2Proof.Machine

namespace Sys2Proof.Proofs

open Sys2Proof.Machine

/-- Settles O25: the stride through the items is the filter by the id modulo the worker count. -/
theorem tasksIssueTheirOwnItems : Obligations.TasksIssueTheirOwnItems := by
  intro s w wid hw hwid
  rw [← ownedItems_eq_filter hwid, ← ownedItems_eq_filter hwid]
  exact ⟨onWorker_some hw, onWorker_some hw⟩

/-- Settles O26: the row's equation for the worker in turn. -/
theorem scanlineResult : Obligations.ScanlineResult := fun _ _ _ hw => onWorker_some hw

/-- Settles O27: the empty caches, of which the invariants say nothing but where they start. -/
theorem newCachesResult : Obligations.NewCachesResult := fun s w hw =>
  ⟨newCaches s.geom w, onWorker_some hw, rfl, rfl, fun _ => ⟨rfl, rfl⟩, rfl,
    newCaches_scanlineCaches s w⟩

/-- Settles O29: the divot fill from the filled raw taps. -/
theorem divotNeedResult : Obligations.DivotNeedResult := by
  intro s w row c raw hw hfilled hmark
  obtain ⟨d, hneed, hdmark, hget⟩ := divNeed_spec hfilled hmark
  have hexec : exec (.divNeed row row c) s = .next (s.withWorker (w.setDiv row d)) := by
    refine (onWorker_some hw).trans ?_
    rw [hneed]
    rfl
  refine ⟨_, hexec, by rw [Worker.div_setDiv], by rw [Worker.div_setDiv, hdmark],
    fun k habove hneeded => ?_, fun k hother => ?_⟩
  · rw [Worker.div_setDiv, hget, if_pos ⟨habove, hneeded⟩]
  · rw [Worker.div_setDiv, hget, if_neg (by omega)]

/-- Settles O30: the raw caches first, and with divot on the divot caches from them. -/
theorem needsFillsBothRows : Obligations.NeedsFillsBothRows := by
  intro s w cur hw hcaches _
  obtain ⟨v, hneeds, hleaves⟩ := needs_spec hcaches cur
  have hexec : exec (.needs cur) s = .next (s.withWorker v) := by
    refine (onWorker_some hw).trans ?_
    rw [hneeds]
    rfl
  exact ⟨v, hexec, hleaves.caches, hleaves.frame, hleaves.rawcMark, hleaves.rawnMark,
    hleaves.divcMark, hleaves.divnMark, hleaves.divotOff, hleaves.divotOn⟩

/-- Settles O31: the cache that is read, and whether its column is filled. -/
theorem selectionResult : Obligations.SelectionResult := by
  intro s w row k v hw
  have hsel : exec (.sel row k) s = setSelected (selected s.ctrl.divot w row k) s
      { w with selRow := row, selCol := k } := onWorker_some hw
  have hdivot : exec .divotOn s = setSelected ((w.div w.selRow).get w.selCol) s w :=
    onWorker_some hw
  refine ⟨fun hon hget => ?_, fun hoff hget => ?_, fun hon hget => ?_, fun hoff hget => ?_,
    fun hget => ?_, fun hget => ?_⟩
  · rw [hsel, selected, if_pos hon, hget]
    rfl
  · rw [hsel, selected, if_neg (by rw [hoff]; exact Bool.false_ne_true), hget]
    rfl
  · rw [hsel, selected, if_pos hon, hget]
    rfl
  · rw [hsel, selected, if_neg (by rw [hoff]; exact Bool.false_ne_true), hget]
    rfl
  · rw [hdivot, hget]
    rfl
  · rw [hdivot, hget]
    rfl

/-- Settles O33: inside the buffer and outside it. -/
theorem writeResult : Obligations.WriteResult := by
  intro s y x v hwf i
  refine ⟨fun hlo hhi => writePrescale_inside v hwf hlo hhi, fun hout => ?_⟩
  rcases writePrescale_cases i v s with ⟨hlo, hhi, -⟩ | ⟨-, heq⟩
  · omega
  · exact heq

/-- Settles O34: the caches give the closed form's colour, and the write is the only one. -/
theorem columnWritesPix : Obligations.ColumnWritesPix := by
  intro s w y x hw hin hcaches hadd hwf i hlo hhi
  obtain ⟨v, hcolumn, hvin, hvcaches, hseq⟩ := columnPixel_eq (x := x) hin hcaches hadd
  obtain ⟨t, hwrite, ht, hget, hother⟩ :=
    writePrescale_inside (s := s.withWorker v) (pix s y x) hwf hlo hhi
  have hexec : exec (.column y x) s = .next t := ((onWorker_some hw).trans hcolumn).trans hwrite
  refine ⟨t, v, hexec, ht, hget, fun hhidden => hget.trans (pix_of_hidden hhidden),
    fun hmin hmax => ⟨_, gammaRgb_makes s (pixColour s y x).rgb y x, ?_⟩, hother, ?_, ?_, hseq⟩
  · rw [hget, pix_of_visible hmin hmax, pack_toNat]
  · obtain ⟨hpixels, hnext, hyfrac⟩ := hvin
    rw [ht]
    exact ⟨hpixels, hnext, hyfrac⟩
  · rw [ht]
    exact hvcaches.congr rfl rfl rfl rfl rfl rfl rfl rfl rfl rfl rfl

/-- Settles O35: one raw sample, in either format. -/
theorem unityScaleIdentity : Obligations.UnityScaleIdentity := by
  intro s y x hxadd hyadd hmode hdivot hfilter hgamma hdither hmin hmax off
  have hpix := pix_of_unity (y := y) hxadd hyadd hmode hdivot hgamma hdither hmin hmax
  refine ⟨fun htype => ?_, fun htype => ?_⟩
  · rw [hpix, fetch_of_rgba16 htype, fetch16_eq, filterSample_raw hmode hfilter]
    rfl
  · rw [hpix, fetch_of_rgba32 htype, fetch32_eq, filterSample_raw hmode hfilter]
    rfl

/-- Settles O38: the sample the intent selects, packed and written at the dense index. -/
theorem fastPixelWrites : Obligations.FastPixelWrites := by
  intro s w y x hw hwf hintent htype i hlo hhi
  obtain ⟨c, hsample, hpix⟩ := fastSample_eq hintent htype y x
  obtain ⟨t, hwrite, ht, hget, hother⟩ := writePrescale_inside (s := s.withWorker { w with
    y := y, x := x, num := fastOffset s.geom y x, rgb := gammaRgb s c y x })
    (pack (gammaRgb s c y x)) hwf hlo hhi
  have hrun : runOp (.fastPixel y x) s = .next t := by
    refine (onWorker_some hw).trans ?_
    rw [hsample]
    exact hwrite
  exact ⟨t, _, hrun, ht, hget.trans hpix.symm, hother, rfl⟩

end Sys2Proof.Proofs
end

section
/-! The proofs of the remaining statements of composition and of the host's commands
(45_composition.md, 40_dispatcher.md, 60_exceptions.md): what each writes with the host port open,
and that it is refused with it closed. -/

namespace Sys2Proof.Machine

/-! ## Composition (R342, R348, R353) -/

theorem modeSwitch_same {s : State} (h : s.cfgCopy.intent = s.lastIntent) : modeSwitch s = s :=
  if_pos h

theorem modeSwitch_changed {s : State} (h : s.cfgCopy.intent ≠ s.lastIntent) :
    modeSwitch s = (s.withPrescale []).withLastIntent s.cfgCopy.intent := if_neg h

theorem srcImage_length (p : Prescale) (d : Desc) : (srcImage p d).length = d.height.toNat := by
  rw [srcImage, List.length_map, List.length_range]

theorem length_of_mem_srcImage {p : Prescale} {d : Desc} {r : List Word} (h : r ∈ srcImage p d) :
    r.length = d.width.toNat := by
  obtain ⟨row, -, rfl⟩ := List.mem_map.mp h
  rw [srcRow, List.length_map, List.length_range]

/-- R348: the pixel of a row and a column of the picture. -/
theorem srcImage_pixel (p : Prescale) {d : Desc} {row col : Nat} (hrow : (row : Int) < d.height)
    (hcol : (col : Int) < d.width) :
    ((srcImage p d)[row]?.bind fun r => r[col]?) = some (srcPixel p d row col) := by
  rw [srcImage, List.getElem?_map, List.getElem?_range (by omega), Option.map_some,
    Option.bind_some, srcRow, List.getElem?_map, List.getElem?_range (by omega), Option.map_some]

theorem exec_sink {s : State} (h : s.desc.inBuffer = true) : exec .sink s
    = .next (s.withOut (s.out ++ [.sink s.desc (srcImage s.prescale s.desc)])) := if_pos h

theorem exec_snapshot {s : State} (h : s.desc.inBuffer = true) : exec .snapshot s
    = .next ((s.withOut (s.out ++
        ([if Config.fileOpens s.snapreq.path then
            .file s.snapreq.path (bmpBytes s.prescale s.desc)
          else .report .warning 0x23 0] : List OutEvent))).withSnapreq
            { s.snapreq with pending := false }) := by
  refine (if_pos h).trans ?_
  split <;> rfl

/-! ## The configuration word of `CFGWR` (R357) -/

theorem getLsbD_eq_decide {n : Nat} (v : BitVec n) (i : Nat) :
    v.getLsbD i = decide (v.toNat / 2 ^ i % 2 = 1) :=
  Nat.testBit_eq_decide_div_mod_eq

theorem toNat_zeroExtend_arg (arg : BitVec 24) : (arg.zeroExtend 32).toNat = arg.toNat :=
  BitVec.toNat_setWidth_of_le (by decide)

theorem decodeCfgw_arg (arg : BitVec 24) : decodeCfgw (arg.zeroExtend 32) =
    { intent := decodeIntent (BitVec.ofNat 2 arg.toNat)
      widescreen := decide (arg.toNat / 4 % 2 = 1)
      hideOverscan := decide (arg.toNat / 8 % 2 = 1)
      workersReq := BitVec.ofNat 8 (arg.toNat / 256) } := by
  rw [decodeCfgw, extractLsb'_eq_ofNat, extractLsb'_eq_ofNat, getLsbD_eq_decide,
    getLsbD_eq_decide, toNat_zeroExtend_arg, pow_zero, Nat.div_one]
  rfl

/-! ## The dispatcher's host commands (R161, R168, R169) -/

theorem resolvedWorkers_eq (c : Cfg) : resolvedWorkers c
    = if c.workersReq.toNat = 0 then Config.hwParallelism else c.workersReq.toNat :=
  if_congr BitVec.toNat_inj.symm rfl rfl

section Open

variable {s : State} (hmay : HostMay s)

include hmay

theorem exec_dispInit : exec .dispInit s = if s.disp.state = .unconstructed then
    .next ((s.withDisp ⟨.ready, resolvedWorkers s.cfg, none,
      List.replicate (resolvedWorkers s.cfg) .idle, false⟩).withWorkers
        (List.replicate (resolvedWorkers s.cfg) .fresh))
    else .refused .dispatcherState := by
  change execDispInit s = _
  rw [execDispInit, hostPort_open hmay.1 hmay.2]

theorem exec_dispWcount : exec .dispWcount s =
    if s.disp.state = .ready ∨ s.disp.state = .running then .next (s.withRet (some s.disp.w))
    else .refused .dispatcherState := by
  change execDispWcount s = _
  rw [execDispWcount, hostPort_open hmay.1 hmay.2]

theorem exec_dispTeardown : exec .dispTeardown s =
    if s.disp.state = .ready then
      .next ((s.withDisp { s.disp with state := .stopping }).withSeq (.joinWorkers :: s.seq))
    else if s.disp.state = .running then .next (s.withDisp { s.disp with stopReq := true })
    else .refused .dispatcherState := by
  change execDispTeardown s = _
  rw [execDispTeardown, hostPort_open hmay.1 hmay.2]
  rfl

theorem exec_update : exec .update s = .next (((s.withCfgCopy s.cfg).withPhase .resolve).withSeq
    (updateSequence s.cfg.intent ++ s.seq)) := by
  change execUpdate s = _
  rw [execUpdate, hostPort_open hmay.1 hmay.2]
  rfl

theorem exec_snapreq (path : List Byte) :
    exec (.snapreq path) s = .next (s.withSnapreq ⟨true, path⟩) := by
  change execSnapreq path s = _
  rw [execSnapreq, hostPort_open hmay.1 hmay.2]

theorem exec_cfgwr (arg : BitVec 24) :
    exec (.cfgwr arg) s = .next (s.withCfg (decodeCfgw (arg.zeroExtend 32))) := by
  change execCfgwr arg s = _
  rw [execCfgwr, hostPort_open hmay.1 hmay.2]

end Open

/-! ## The join and the barrier (R160, R163, R169) -/

/-- R160, log 20: the join of a stopping pool. -/
theorem step_of_join {s : State} {r : List SeqOp} (henv : s.env = [])
    (hphase : s.phase ≠ .halted) (hstate : s.disp.state = .stopping)
    (hseq : s.seq = .joinWorkers :: r) :
    step s = .next ((s.withSeq r).withDisp { s.disp with state := .tornDown }) := by
  have hidle : s.disp.state ≠ .running := by
    rw [hstate]
    decide
  rw [step_of_seq ⟨henv, hphase, hidle⟩ hseq]
  exact congrArg Host.Outcome.next (if_pos hstate)

theorem unfinished_of_all_done {l : List WStat} (h : ∀ st ∈ l, st = .done) :
    unfinished l = [] := by
  refine List.eq_nil_iff_forall_not_mem.mpr fun i hi => ?_
  rcases mem_unfinished.mp hi with hstat | hstat
  · cases h _ (List.mem_of_getElem? hstat)
  · cases h _ (List.mem_of_getElem? hstat)

/-- R163: the barrier is the step once every worker is done. -/
theorem step_of_all_done {s : State} (henv : s.env = []) (hphase : s.phase ≠ .halted)
    (hrunning : s.disp.state = .running) (hdone : ∀ st ∈ s.disp.wstat, st = .done) :
    step s = .next (joinRound s) := by
  rw [step_of_running henv hphase hrunning, roundStep, unfinished_of_all_done hdone]
  exact if_pos (by simpa using hdone)

theorem joinRound_of_stay {s : State} (h : s.disp.stopReq = false) : joinRound s
    = s.withDisp ⟨.ready, s.disp.w, none, s.disp.wstat.map fun _ => .idle, false⟩ := by
  rw [joinRound, h]
  rfl

theorem joinRound_of_stop {s : State} (h : s.disp.stopReq = true) : joinRound s
    = (s.withDisp ⟨.stopping, s.disp.w, none, s.disp.wstat.map fun _ => .idle, false⟩).withSeq
        (.joinWorkers :: s.seq) := by
  rw [joinRound, h]
  rfl

/-! ## The closed host port (R390) -/

theorem hostPort_faulted {s : State} (h : s.fault.valid = true) (k : State → Out) :
    hostPort s k = .refused .faulted := if_pos h

theorem hostPort_busy {s : State} (hfault : s.fault.valid = false) (hphase : s.phase ≠ .idle)
    (k : State → Out) : hostPort s k = .refused .busy :=
  (if_neg (by rw [hfault]; exact Bool.false_ne_true)).trans (if_neg hphase)

/-- R136, R390: the operations encoded by a command word are those that pass the host port. -/
theorem exec_eq_hostPort {i : Instr} (hseq : encode i ≠ .seq)
    (hmode : ∀ st m, encode i ≠ .mode st m) : ∃ k, ∀ s, exec i s = hostPort s k := by
  cases hcode : encode i with
  | cmd w path =>
    have hdecode : (decodeCmd w path).toOption = some i := decodeEncoding_cmd hcode
    cases hcmd : decodeCmd w path with
    | ok j =>
      rw [hcmd] at hdecode
      obtain rfl := Option.some.inj hdecode
      exact exec_of_decodeCmd hcmd
    | error e =>
      rw [hcmd] at hdecode
      cases hdecode
  | mode st m => exact absurd hcode (hmode st m)
  | seq => exact absurd hcode hseq

end Sys2Proof.Machine

namespace Sys2Proof.Proofs

open Sys2Proof.Machine

/-- Settles O39: the two cases of R342; a buffer without entries reads 0 everywhere. -/
theorem modeSwitchResult : Obligations.ModeSwitchResult := fun _ =>
  ⟨fun hsame => congrArg Host.Outcome.next (modeSwitch_same hsame), fun hchanged =>
    ⟨_, congrArg Host.Outcome.next (modeSwitch_changed hchanged), rfl, fun _ => rfl⟩⟩

/-- Settles O41: the picture by its rows and columns, and the two other events. -/
theorem pictureEventsResult : Obligations.PictureEventsResult := fun s =>
  ⟨rfl, fun hin => ⟨⟨srcImage s.prescale s.desc, exec_sink hin, srcImage_length _ _,
    fun _ => length_of_mem_srcImage, fun _ _ => srcImage_pixel _⟩, exec_snapshot hin⟩⟩

/-- Settles O43: the worker count of R161, and the dispatcher's state. -/
theorem initResult : Obligations.InitResult := by
  intro s hmay n
  have hn : resolvedWorkers s.cfg = n := resolvedWorkers_eq s.cfg
  have hexec := exec_dispInit hmay
  rw [hn] at hexec
  exact ⟨hn ▸ one_le_resolvedWorkers s.cfg, fun hnew => hexec.trans (if_pos hnew),
    fun hold => hexec.trans (if_neg hold)⟩

/-- Settles O44: the three commands with the host port open. -/
theorem hostRegisterCommandsResult : Obligations.HostRegisterCommandsResult := by
  intro s hmay
  refine ⟨fun hready => (exec_dispWcount hmay).trans (if_pos hready),
    fun hother => (exec_dispWcount hmay).trans (if_neg hother),
    exec_snapreq hmay, fun arg => ?_⟩
  rw [exec_cfgwr hmay, decodeCfgw_arg]

/-- Settles O45: the teardown by the dispatcher's state, and the join after it or after the
barrier. -/
theorem teardownResult : Obligations.TeardownResult := by
  refine ⟨fun s hmay henv => ⟨fun hready => ?_, fun hrunning => ?_, fun hready hrunning => ?_⟩,
    fun s henv hphase hrunning hstop hdone => ?_⟩
  · have hexec := (exec_dispTeardown hmay).trans (if_pos hready)
    have hphase : s.phase ≠ .halted := by
      rw [hmay.2]
      decide
    exact ⟨_, _, hexec, rfl, step_of_join henv hphase rfl rfl, rfl⟩
  · rw [exec_dispTeardown hmay, if_neg (by rw [hrunning]; decide), if_pos hrunning]
  · rw [exec_dispTeardown hmay, if_neg hready, if_neg hrunning]
  · have hbarrier := step_of_all_done henv hphase hrunning hdone
    rw [joinRound_of_stop hstop] at hbarrier
    exact ⟨_, _, hbarrier, rfl, step_of_join henv hphase rfl rfl, rfl⟩

/-- Settles O46: the sequence of R340 by the sampled intent. -/
theorem updateStartsTheSequence : Obligations.UpdateStartsTheSequence := by
  refine fun s => ⟨rfl, fun hmay hnormal => ?_, fun hmay hfast => ?_⟩
  · rw [exec_update hmay, updateSequence, if_pos hnormal]
    rfl
  · rw [exec_update hmay, updateSequence, if_neg hfast]
    rfl

/-- Settles O47: every command and every write passes the host port. -/
theorem hostPortRefuses : Obligations.HostPortRefuses := by
  refine ⟨fun s i hseq hmode => ?_, fun s a ha => ?_⟩
  · obtain ⟨k, hport⟩ := exec_eq_hostPort hseq hmode
    rw [hport]
    exact ⟨fun hfault => hostPort_faulted hfault k,
      fun hfault hphase => hostPort_busy hfault hphase k⟩
  · obtain ⟨k, hport⟩ := hostAction_write ha s
    rw [hport]
    exact ⟨fun hfault => hostPort_faulted hfault k,
      fun hfault hphase => hostPort_busy hfault hphase k⟩

end Sys2Proof.Proofs
end

section
/-! The proofs of the machine's remaining statements (40_dispatcher.md, 30_encoding.md R120): the
steps of a round, and that a step runs what is decoded or issued. -/

namespace Sys2Proof.Machine

/-! ## One issued operation -/

/-- A stage runs the row that matches the update's mode word (R141). -/
theorem runStage_of_row {st : Stage} {s : State} {i : Instr} (h : decodeMode st s.mode = .ok i) :
    runStage st s = exec i s := by
  rw [runStage, h]

/-- A stage without a row is a no-op where R141 lists no complement, and refused elsewhere
(log 24). -/
theorem runStage_of_noRow {st : Stage} {s : State} {e : DecodeError}
    (h : decodeMode st s.mode = .error e) :
    runStage st s = if st.optional then .next s else .refused (.noModeRow st) := by
  rw [runStage, h]

theorem optional_iff (st : Stage) :
    st.optional = true ↔ st ∈ [Stage.restore, .divot, .field, .widescreen] := by
  cases st <;> decide

section NoRow

variable {st : Stage} {s : State} {e : DecodeError} (h : decodeMode st s.mode = .error e)

include h

theorem runStage_of_optional (hst : st ∈ [Stage.restore, .divot, .field, .widescreen]) :
    runStage st s = .next s :=
  (runStage_of_noRow h).trans (if_pos ((optional_iff st).mpr hst))

theorem runStage_of_required (hst : st ∉ [Stage.restore, .divot, .field, .widescreen]) :
    runStage st s = .refused (.noModeRow st) :=
  (runStage_of_noRow h).trans (if_neg (mt (optional_iff st).mp hst))

end NoRow

/-! ## The step of the worker in turn (R164, R165) -/

section WorkerStep

variable {s : State} {i : Nat} {w : Worker}

theorem workerStep_pending (hw : s.workers[i]? = some w)
    (hstat : s.disp.wstat[i]? = some .pending) :
    workerStep i s = .next (startWorker (s.withMe i) w) := by
  refine (onWorker_some (s := s.withMe i) hw).trans ?_
  rw [hstat]

theorem workerStep_ended (hw : s.workers[i]? = some w) (hstat : s.disp.wstat[i]? = some .busy)
    (hseq : w.seq = []) : workerStep i s = .next (endWorker (s.withMe i)) := by
  refine (onWorker_some (s := s.withMe i) hw).trans ?_
  rw [hstat]
  dsimp only
  rw [hseq]

theorem workerStep_issued {op : SeqOp} {r : List SeqOp} (hw : s.workers[i]? = some w)
    (hstat : s.disp.wstat[i]? = some .busy) (hseq : w.seq = op :: r) :
    workerStep i s = runOp op ((s.withMe i).withWorker { w with seq := r }) := by
  refine (onWorker_some (s := s.withMe i) hw).trans ?_
  rw [hstat]
  dsimp only
  rw [hseq]

end WorkerStep

section WorkerTurn

variable {s : State} {i : Nat} {w : Worker} (h : WorkerTurn s i w)

include h

theorem worker_afterChoice : (afterChoice s).workers[i]? = some w := by
  obtain ⟨-, -, -, -, hw⟩ := h
  rwa [afterChoice_workers]

/-- R164: a pending worker starts with the round's task and its own id. -/
theorem step_of_pending (hstat : s.disp.wstat[i]? = some .pending) :
    step s = .next ((((afterChoice s).withMe i).withDisp
      { s.disp with wstat := s.disp.wstat.set i .busy }).withWorkers
        (s.workers.set i { w with seq := taskOp s.disp.task i })) := by
  rw [step_of_workerTurn h, workerStep_pending (worker_afterChoice h) (by rwa [afterChoice_disp]),
    ← afterChoice_disp s, ← afterChoice_workers s]
  rfl

/-- R164: a busy worker with nothing left to run is done. -/
theorem step_of_ended (hstat : s.disp.wstat[i]? = some .busy) (hseq : w.seq = []) :
    step s = .next (((afterChoice s).withMe i).withDisp
      { s.disp with wstat := s.disp.wstat.set i .done }) := by
  rw [step_of_workerTurn h,
    workerStep_ended (worker_afterChoice h) (by rwa [afterChoice_disp]) hseq, ← afterChoice_disp s]
  rfl

/-- R165: a busy worker runs its next operation, on the state after the free choice. -/
theorem step_of_issued {op : SeqOp} {r : List SeqOp} (hstat : s.disp.wstat[i]? = some .busy)
    (hseq : w.seq = op :: r) :
    step s = runOp op (((afterChoice s).withMe i).withWorkers
      (s.workers.set i { w with seq := r })) := by
  rw [step_of_workerTurn h,
    workerStep_issued (worker_afterChoice h) (by rwa [afterChoice_disp]) hseq,
    ← afterChoice_workers s]
  rfl

end WorkerTurn

/-- The free choice and the worker's list are no part of the mode word. -/
theorem mode_afterChoice (s : State) (i : Nat) (l : List Worker) :
    (((afterChoice s).withMe i).withWorkers l).mode = s.mode := by
  obtain ⟨k, heq⟩ := afterChoice_eq s
  rw [heq]
  rfl

/-! ## The step of the idle block and of the environment -/

/-- R441: with nothing issued the idle block gives the host its turn. -/
theorem step_of_idle {s : State} (h : EngineTurn s) (hseq : s.seq = []) (hidle : s.phase = .idle) :
    step s = hostStep s := by
  obtain ⟨henv, hphase, hdisp⟩ := h
  simp only [step, envStep, henv, machineStep, if_neg hphase, if_neg hdisp, hseq, if_pos hidle]

theorem hostStep_cons {s : State} {a : HostAction} {r : List HostAction} (h : s.host = a :: r) :
    hostStep s = hostAction a (s.withHost r) := by
  rw [hostStep, h]

theorem hostStep_nil {s : State} (h : s.host = []) : hostStep s = .next s := by
  rw [hostStep, h]

theorem hostAction_command {w : Word} {path : List Byte} {i : Instr}
    (h : decodeCmd w path = .ok i) (s : State) : hostAction (.command w path) s = exec i s := by
  rw [hostAction, h]

theorem step_of_quiet {s : State} {r : List EnvEvent} (h : s.env = .quiet :: r) :
    step s = machineStep (s.withEnv r) := by
  simp only [step, envStep, h]

/-- Log 9: the failure of a worker that is in no round does nothing. -/
theorem workerFailure_of_outside {s : State} {k : Nat} (h : s.phase = .halted ∨
    s.disp.state ≠ .running ∨
      (s.disp.wstat[k]? ≠ some .pending ∧ s.disp.wstat[k]? ≠ some .busy)) :
    workerFailure k s = s := by
  refine if_neg fun ⟨hphase, hrunning, hstat⟩ => ?_
  rcases h with hhalted | hidle | ⟨hpending, hbusy⟩
  · exact hphase hhalted
  · exact hidle hrunning
  · exact hstat.elim hpending hbusy

end Sys2Proof.Machine

namespace Sys2Proof.Proofs

open Sys2Proof.Machine

/-- Settles O49: the worker in turn by its status, and the barrier. -/
theorem roundSteps : Obligations.RoundSteps := by
  refine fun s => ⟨fun henv hphase hrunning hlen ⟨st, hmem, hst⟩ => ?_,
    fun i w hturn hstat => step_of_pending hturn hstat,
    fun i w hturn hstat hseq => step_of_ended hturn hstat hseq,
    fun henv hphase hrunning hdone => ⟨fun hstay => ?_, fun hstop => ?_⟩⟩
  · obtain ⟨i, hi⟩ := List.mem_iff_getElem?.mp hmem
    have hin : i ∈ unfinished s.disp.wstat := by
      rw [mem_unfinished, hi]
      exact hst.imp (congrArg some) (congrArg some)
    obtain ⟨j, w, hturn, hj⟩ :=
      exists_workerTurn henv hphase hrunning hlen (List.ne_nil_of_mem hin)
    exact ⟨j, w, hturn, mem_unfinished.mp hj⟩
  · rw [step_of_all_done henv hphase hrunning hdone, joinRound_of_stay hstay]
  · rw [step_of_all_done henv hphase hrunning hdone, joinRound_of_stop hstop]

/-- Settles O53: the engine's and the worker's next issued operation, and the host's command. -/
theorem stepRunsTheDecodedOperation : Obligations.StepRunsTheDecodedOperation := by
  refine fun s i => ⟨fun w path r hturn hseq hidle hhost hdecode => ?_,
    fun r hturn hseq => step_of_seq hturn hseq, fun st r hturn hseq hrow => ?_,
    fun k w r hturn hstat hseq => step_of_issued hturn hstat hseq,
    fun k w st r hturn hstat hseq hrow => ?_⟩
  · rw [step_of_idle hturn hseq hidle, hostStep_cons hhost, hostAction_command hdecode]
  · exact (step_of_seq hturn hseq).trans (runStage_of_row (s := s.withSeq r) hrow)
  · rw [← mode_afterChoice s k (s.workers.set k { w with seq := r })] at hrow
    exact (step_of_issued hturn hstat hseq).trans (runStage_of_row hrow)

/-- Settles O54: every other issued move, the host's turn and the environment's quiet events. -/
theorem stepRunsEveryOtherMove : Obligations.StepRunsEveryOtherMove := by
  refine fun s => ⟨fun r hturn => ⟨fun p hseq => step_of_seq hturn hseq,
      fun hseq => step_of_seq hturn hseq, fun hseq => ⟨fun hpending => ?_, fun hnone => ?_⟩,
      fun st hseq hrow => ⟨fun hst => ?_, fun hst => ?_⟩⟩,
    fun k w r hturn hstat => ?_,
    fun hturn hseq hidle => ⟨fun a r hhost => ?_, fun hhost => ?_⟩,
    fun r henv => step_of_quiet henv, fun k r henv houtside => ?_⟩
  · exact (step_of_seq hturn hseq).trans (if_pos hpending)
  · exact (step_of_seq hturn hseq).trans (if_neg (by simpa using hnone))
  · exact (step_of_seq hturn hseq).trans (runStage_of_optional (s := s.withSeq r) hrow hst)
  · exact (step_of_seq hturn hseq).trans (runStage_of_required (s := s.withSeq r) hrow hst)
  · intro t
    refine ⟨fun y x hseq => step_of_issued hturn hstat hseq, fun st hseq hrow => ?_⟩
    have hstep : step s = runStage st t := step_of_issued hturn hstat hseq
    rw [← mode_afterChoice s k (s.workers.set k { w with seq := r })] at hrow
    exact ⟨fun hst => hstep.trans (runStage_of_optional hrow hst),
      fun hst => hstep.trans (runStage_of_required hrow hst)⟩
  · rw [step_of_idle hturn hseq hidle, hostStep_cons hhost]
  · rw [step_of_idle hturn hseq hidle, hostStep_nil hhost]
  · rw [step_of_workerFailure henv, workerFailure_of_outside (s := s.withEnv r) houtside]

end Sys2Proof.Proofs
end
